-- ==== Sys2Proof/Word.lean ====
section
/-! DEFINITION. The widths of the block's data: a byte (00_scope R9) and a request descriptor word (30_encoding R80). -/
namespace Sys2Proof

/-- A byte: a packed byte of the buffer, a marker or command byte, a data byte (00_scope R9, 20_memory R53). -/
abbrev Byte := BitVec 8

/-- A descriptor word of a request (30_encoding R80). -/
abbrev Word := BitVec 32

end Sys2Proof
end

