-- ==== Sys2Proof/Config.lean ====
section
/-! DEFINITION. What one build of the block fixes (00_scope R5) and the one free value, the transport's answer. -/
namespace Sys2Proof

/-- `COLSEL_FRAMING` (00_scope R5, 30_encoding R91). -/
inductive Framing where
  | separate
  | combined
  deriving DecidableEq, Repr

/-- `LAYOUT` (00_scope R5, 41_buffer_packing R131-R132). -/
inductive Layout where
  | linear
  | strided
  deriving DecidableEq, Repr

/-- `POLICY` (00_scope R5, 42_transfer_engine R165); `cont` is the spec's `Continue`. -/
inductive Policy where
  | cont
  | abort
  deriving DecidableEq, Repr

/-- The transport's answer to one transfer (20_memory R61). -/
inductive XferStatus where
  | pass
  | fail
  deriving DecidableEq, Repr, Inhabited

/-- The elaboration parameters of 00_scope R5, one value per build. `ROWS` and `CAP` are computed from them
(Machine/Operands.lean); the constraints of R5 and R6 are `Machine.admitted`. -/
structure Build where
  /-- `COLS` -/
  cols : Nat
  /-- `PAGES` -/
  pages : Nat
  /-- `MAX_XFER` -/
  maxXfer : Nat
  /-- `MAX_CHUNK` -/
  maxChunk : Nat
  /-- `PAGE_BASE` -/
  pageBase : Byte
  /-- `COL_LO_BASE` -/
  colLoBase : Byte
  /-- `COL_HI_BASE` -/
  colHiBase : Byte
  /-- `COLSEL_FRAMING` -/
  framing : Framing
  /-- `LAYOUT` -/
  layout : Layout
  /-- `POLICY` -/
  policy : Policy
  deriving DecidableEq, Repr

/-- `CMD_MARKER` (00_scope R5, 30_encoding R87). -/
def Config.cmdMarker : Byte := 0x80#8

/-- `DATA_MARKER` (00_scope R5, 30_encoding R87). -/
def Config.dataMarker : Byte := 0x40#8

/-- The build whose values 92_eei_decisions D37 gives the test vectors. DESIGN CHOICE: `State.reset` holds it; the OPEN
values (MAX_XFER 32, hence MAX_CHUNK 31) are the spec's examples. PRESUMED: the three command bases, which the spec marks
as general knowledge. Unsafe for a claim about reset alone; log entry 1. -/
def Config.exampleBuild : Build where
  cols := 128
  pages := 8
  maxXfer := 32
  maxChunk := 31
  pageBase := 0xB0#8
  colLoBase := 0x00#8
  colHiBase := 0x10#8
  framing := .separate
  layout := .linear
  policy := .cont

/-- FREE VALUE: the transport's answer to the n-th transfer that no listed answer of `State.answers` covers ("a draw, under
no law", 00_scope R8; 42_transfer_engine R171). Nothing constrains it. Safe; log entry 4. -/
opaque Config.transportAnswer : Nat → XferStatus

end Sys2Proof
end

