-- ==== Sys2Proof/Syntax.lean ====
section
/-! DEFINITION. The instructions: one constructor per row of spec/opcode_table.json. The first six are requests the host
presents (30_encoding R80-R86, R94), the last five are the transfers the sequencer issues (30_encoding R87-R92). -/
namespace Sys2Proof

/-- A request as it stands on the request port (30_encoding R80): its descriptor words and, for BITMAP, its data list. -/
structure Request where
  words : List Word
  data  : List Byte
  deriving DecidableEq, Repr

/-- The kind of a transfer, the `xkind` of a `DIAG_XFER` event (60_exceptions R226); also the position in the sequence of
42_transfer_engine R170 from which a bus reader tells overlapping commands apart (30_encoding R95). -/
inductive XKind where
  | page
  | colLo
  | colHi
  | colBoth
  | data
  deriving DecidableEq, Repr

/-- The instructions of the block. -/
inductive Instr where
  /-- `CONFIGURE addr` (30_encoding R83, 43_region_ops R196). -/
  | configure (devAddr : BitVec 7)
  /-- `BITMAP x, y, width, height, len, {data}` (30_encoding R84, 43_region_ops R191). -/
  | bitmap (x y width height dataLength : Word) (data : List Byte)
  /-- `FILL x, y, width, height, byte` (30_encoding R85, 43_region_ops R193). -/
  | fill (x y width height : Word) (fillByte : Byte)
  /-- `CLEAR` (30_encoding R86, 43_region_ops R194). -/
  | clear
  /-- `READBUF offset, count` (30_encoding R86, 43_region_ops R200). -/
  | readbuf (offset count : Word)
  /-- An illegal request, kept whole (30_encoding R94, 60_exceptions R231). -/
  | reservedOp (r : Request)
  /-- The page-select transfer: `base` is PAGE_BASE[7:3], `p` the page field (30_encoding R88). -/
  | pageSelect (base : BitVec 5) (p : BitVec 3)
  /-- The column-low transfer: `base` is COL_LO_BASE[7:4], `c` column bits 3..0 (30_encoding R89). -/
  | colLo (base : BitVec 4) (c : BitVec 4)
  /-- The column-high transfer: `base` is COL_HI_BASE[7:3], `c` column bits 6..4 (30_encoding R90). -/
  | colHi (base : BitVec 5) (c : BitVec 3)
  /-- The combined column-select transfer (30_encoding R91). -/
  | colSelectCombined (loBase : BitVec 4) (c : BitVec 4) (hiBase : BitVec 5) (d : BitVec 3)
  /-- The pixel-data transfer (30_encoding R92). -/
  | data (bytes : List Byte)
  deriving DecidableEq, Repr

end Sys2Proof
end

