-- ==== Sys2Proof/WellFormed.lean ====
section
/-! DEFINITION. Which instructions have an encoding: an illegal request must be illegal and of a descriptor's size, a data
transfer must carry a byte. Every other operand's bounds are in its type. -/
namespace Sys2Proof

/-- `OP`, bits 3..0 of `w0` (30_encoding R81). -/
def opField (w0 : Word) : BitVec 4 := w0.extractLsb' 0 4

/-- The operation codes 0x1 .. 0x5; the others are reserved (30_encoding R82). -/
def opAssigned (op : BitVec 4) : Bool :=
  op == 1#4 || op == 2#4 || op == 3#4 || op == 4#4 || op == 5#4

/-- The reserved bits of the operand words: `w1[31:7]` of CONFIGURE (30_encoding R83), `w5[31:8]` of FILL (R85). They are
those of a request of the right length that carries no data. -/
def reservedOperandBits (op : BitVec 4) : List Word → Bool
  | [w1]             => op == 1#4 && w1.extractLsb' 7 25 != 0#25
  | [_, _, _, _, w5] => op == 3#4 && w5.extractLsb' 8 24 != 0#24
  | _                => false

/-- The illegal requests of 30_encoding R94: a reserved `OP`, or a reserved bit of R81, R83 or R85 that is 1. -/
def Request.illegal (r : Request) : Bool :=
  match r.words with
  | []         => false
  | w0 :: rest =>
    w0.extractLsb' 4 28 != 0#28 || !opAssigned (opField w0)
      || (r.data.isEmpty && reservedOperandBits (opField w0) rest)

/-- The instructions that have an encoding. -/
def Instr.wellFormed : Instr → Bool
  | .reservedOp r => r.illegal && decide (r.words.length ≤ 6)
  | .data bytes   => !bytes.isEmpty
  | .configure _ => true
  | .bitmap _ _ _ _ _ _ => true
  | .fill _ _ _ _ _ => true
  | .clear => true
  | .readbuf _ _ => true
  | .pageSelect _ _ => true
  | .colLo _ _ => true
  | .colHi _ _ => true
  | .colSelectCombined _ _ _ _ => true

end Sys2Proof
end

