-- ==== Sys2Proof/Decode.lean ====
section
/-! DEFINITION. The decoder and the encoder of both layers (30_encoding): request descriptors, which the block decodes, and
transfers, which a reader of the bus decodes (R95). The decoder comes first, the encoder after it. -/
namespace Sys2Proof

/-- Why bits are no instruction. -/
inductive DecodeError where
  /-- A request with no word, more than six words, or not the words (or the data) that its `OP` has (30_encoding R80, R82). -/
  | malformedRequest
  /-- A transfer of no bytes. -/
  | emptyTransfer
  /-- A first byte that is neither marker (30_encoding R87). -/
  | unknownMarker
  /-- A data transfer with no data byte (30_encoding R92). -/
  | noDataBytes
  /-- A command byte that matches none of the three bases (30_encoding R95). -/
  | unknownCommand
  /-- A command transfer of no command byte or of more than two (30_encoding R97). -/
  | badCommandLength
  deriving DecidableEq, Repr

/-- The words of one instruction in either layer. -/
inductive Encoded where
  | request  (r : Request)
  | transfer (bytes : List Byte)
  deriving DecidableEq, Repr

/-- The words of a request whose first word is `w0` (30_encoding R82, R97). -/
def wordsOfOp (w0 : Word) : Nat :=
  if opField w0 = 1#4 then 2
  else if opField w0 = 2#4 then 6
  else if opField w0 = 3#4 then 6
  else if opField w0 = 5#4 then 3
  else 1

/-- A request whose `w0` has clear reserved bits and operation code `op`; `rest` are its further words (30_encoding
R82-R86, R94). -/
def decodeOperands (r : Request) (op : BitVec 4) (rest : List Word) : Except DecodeError Instr :=
  if op = 1#4 then
    match rest, r.data with
    | [w1], [] => if w1.extractLsb' 7 25 = 0#25 then .ok (.configure (w1.extractLsb' 0 7)) else .ok (.reservedOp r)
    | _, _     => .error .malformedRequest
  else if op = 2#4 then
    match rest with
    | [x, y, w, h, len] => .ok (.bitmap x y w h len r.data)
    | _                 => .error .malformedRequest
  else if op = 3#4 then
    match rest, r.data with
    | [x, y, w, h, w5], [] =>
      if w5.extractLsb' 8 24 = 0#24 then .ok (.fill x y w h (w5.extractLsb' 0 8)) else .ok (.reservedOp r)
    | _, _ => .error .malformedRequest
  else if op = 4#4 then
    match rest, r.data with
    | [], [] => .ok .clear
    | _, _   => .error .malformedRequest
  else if op = 5#4 then
    match rest, r.data with
    | [off, cnt], [] => .ok (.readbuf off cnt)
    | _, _           => .error .malformedRequest
  else .ok (.reservedOp r)

/-- The request decoder, total on any words and data (30_encoding R80-R86, R94, R97). -/
def decodeRequest (r : Request) : Except DecodeError Instr :=
  match r.words with
  | []         => .error .malformedRequest
  | w0 :: rest =>
    if 6 < r.words.length then .error .malformedRequest
    else if w0.extractLsb' 4 28 = 0#28 then decodeOperands r (opField w0) rest
    else .ok (.reservedOp r)

/-- The base tests of 30_encoding R95 on a command byte. -/
def matchesPage (b : Build) (c : Byte) : Bool := (c &&& 0xF8#8) == b.pageBase
def matchesColLo (b : Build) (c : Byte) : Bool := (c &&& 0xF0#8) == b.colLoBase
def matchesColHi (b : Build) (c : Byte) : Bool := (c &&& 0xF8#8) == b.colHiBase

/-- The fields of a command byte (30_encoding R88-R90). -/
def pageOfByte (c : Byte) : Instr := .pageSelect (c.extractLsb' 3 5) (c.extractLsb' 0 3)
def colLoOfByte (c : Byte) : Instr := .colLo (c.extractLsb' 4 4) (c.extractLsb' 0 4)
def colHiOfByte (c : Byte) : Instr := .colHi (c.extractLsb' 3 5) (c.extractLsb' 0 3)

/-- One command byte: its base tells its kind; where the bases overlap, its position `pos` does (30_encoding R95). -/
def decodeCommand (b : Build) (pos : XKind) (c : Byte) : Except DecodeError Instr :=
  match matchesPage b c, matchesColLo b c, matchesColHi b c with
  | true,  false, false => .ok (pageOfByte c)
  | false, true,  false => .ok (colLoOfByte c)
  | false, false, true  => .ok (colHiOfByte c)
  | false, false, false => .error .unknownCommand
  | pg, lo, hi =>
    if pg = true ∧ pos = .page then .ok (pageOfByte c)
    else if lo = true ∧ pos = .colLo then .ok (colLoOfByte c)
    else if hi = true ∧ pos = .colHi then .ok (colHiOfByte c)
    else .error .unknownCommand

/-- The transfer decoder of a bus reader, total on any bytes (30_encoding R87-R92, R95). -/
def decodeTransfer (b : Build) (pos : XKind) : List Byte → Except DecodeError Instr
  | []        => .error .emptyTransfer
  | m :: rest =>
    if m = Config.dataMarker then
      (if rest.isEmpty then .error .noDataBytes else .ok (.data rest))
    else if m = Config.cmdMarker then
      match rest with
      | [c]      => decodeCommand b pos c
      | [lo, hi] =>
        if matchesColLo b lo = true ∧ matchesColHi b hi = true then
          .ok (.colSelectCombined (lo.extractLsb' 4 4) (lo.extractLsb' 0 4) (hi.extractLsb' 3 5) (hi.extractLsb' 0 3))
        else .error .unknownCommand
      | _        => .error .badCommandLength
    else .error .unknownMarker

/-- The decoder of both layers. -/
def decode (b : Build) (pos : XKind) : Encoded → Except DecodeError Instr
  | .request r      => decodeRequest r
  | .transfer bytes => decodeTransfer b pos bytes

/-- The bytes of a transfer's word, the marker in its highest byte as spec/opcode_table.json lays the pattern out; a lone
byte is followed by a zero byte (the operand byte the table gives no bits). -/
def tableBytes (nbits w : Nat) : List Byte :=
  let n := nbits / 8
  (List.range n).map (fun i => BitVec.ofNat 8 (w >>> (8 * (n - 1 - i)))) ++ (if n < 2 then [0#8] else [])

/-- The request of a descriptor's word: `w0` in bits 31..0, each later word above it, as many words as its `OP` has. -/
def tableRequest (w : Nat) : Request where
  words := (List.range (wordsOfOp (BitVec.ofNat 32 w))).map (fun i => BitVec.ofNat 32 (w >>> (32 * i)))
  data := []

/-- The build a table word is read for: `Config.exampleBuild`, whose bases do not overlap; of a 3-byte command, whose length
alone tells its kind (30_encoding R97), the bases are the word's own, which the table leaves open. Log entry 7. -/
def tableBuild : List Byte → Build
  | [_, lo, hi] => { Config.exampleBuild with colLoBase := lo &&& 0xF0#8, colHiBase := hi &&& 0xF8#8 }
  | _           => Config.exampleBuild

/-- The instruction of `nbits` bits `w` numbered as spec/opcode_table.json numbers them: a descriptor from 32 bits up, a
transfer below. Log entry 7. -/
def decodeTableWord (nbits w : Nat) : Option Instr :=
  match (if 32 ≤ nbits then decodeRequest (tableRequest w)
         else decodeTransfer (tableBuild (tableBytes nbits w)) .page (tableBytes nbits w)) with
  | .ok i    => some i
  | .error _ => none

/-- The bytes of the transfers (30_encoding R88-R92). -/
def pageSelectBytes (base : BitVec 5) (p : BitVec 3) : List Byte := [Config.cmdMarker, base ++ p]
def colLoBytes (base : BitVec 4) (c : BitVec 4) : List Byte := [Config.cmdMarker, base ++ c]
def colHiBytes (base : BitVec 5) (c : BitVec 3) : List Byte := [Config.cmdMarker, base ++ c]
def colBothBytes (loBase c : BitVec 4) (hiBase : BitVec 5) (d : BitVec 3) : List Byte :=
  [Config.cmdMarker, loBase ++ c, hiBase ++ d]
def dataBytes (bytes : List Byte) : List Byte := Config.dataMarker :: bytes

/-- The encoder (30_encoding R81-R86, R88-R92). -/
def encode : Instr → Encoded
  | .configure a          => .request ⟨[1#32, a.setWidth 32], []⟩
  | .bitmap x y w h len d => .request ⟨[2#32, x, y, w, h, len], d⟩
  | .fill x y w h v       => .request ⟨[3#32, x, y, w, h, v.setWidth 32], []⟩
  | .clear                => .request ⟨[4#32], []⟩
  | .readbuf off cnt      => .request ⟨[5#32, off, cnt], []⟩
  | .reservedOp r         => .request r
  | .pageSelect base p    => .transfer (pageSelectBytes base p)
  | .colLo base c         => .transfer (colLoBytes base c)
  | .colHi base c         => .transfer (colHiBytes base c)
  | .colSelectCombined lb c hb d => .transfer (colBothBytes lb c hb d)
  | .data bytes           => .transfer (dataBytes bytes)

/-- The column a bus reader recovers from the two command bytes (30_encoding R91). -/
def columnOfBytes (lo hi : Byte) : Nat := (((hi &&& 0x07#8).toNat <<< 4) ||| (lo &&& 0x0F#8).toNat)

end Sys2Proof
end

