-- ==== Sys2Proof/Machine/State.lean ====
section
/-! DEFINITION. The state of the block (10_state), its reset value (10_state R34), and the reasons a step can stop. -/
namespace Sys2Proof.Machine

/-- `STATE` (10_state R24). -/
inductive SeqState where
  | idle
  | check
  | bufwr
  | page
  | colLo
  | colHi
  | colBoth
  | data
  deriving DecidableEq, Repr

/-- The result codes (60_exceptions R221); their numbers are `resultValue` (Machine/Flags.lean). -/
inductive ResultCode where
  | resOk
  | errRow
  | errCol
  | errLen
  | errOversize
  | errXfer
  deriving DecidableEq, Repr

/-- The kinds of diagnostic event (60_exceptions R226); their numbers are `diagValue` (Machine/Flags.lean). -/
inductive DiagKind where
  | row
  | col
  | len
  | oversize
  | xfer
  deriving DecidableEq, Repr

/-- The info of a diagnostic event (60_exceptions R226). -/
inductive DiagInfo where
  /-- `(x, y, width, height, dataLength)`. -/
  | region (x y width height : Int) (dataLength : Nat)
  /-- `(xkind, page, column, length)`. -/
  | transfer (xkind : XKind) (page column length : Nat)
  deriving DecidableEq, Repr

/-- What the block sends to its environment, in the order it sends it (20_memory R60, R65). -/
inductive Event where
  /-- One call of the transport's write primitive and its answer (20_memory R61, 30_encoding R99). -/
  | transfer (address : BitVec 7) (bytes : List Byte) (length : Nat) (wait stop : Bool) (status : XferStatus)
  /-- One diagnostic event (60_exceptions R226). -/
  | diag (kind : DiagKind) (info : DiagInfo)
  /-- The response of a request: its code byte and, for READBUF, the bytes read (30_encoding R101). -/
  | response (code : Byte) (bytes : List Byte)
  deriving DecidableEq, Repr

/-- The model faults that `FAULT` records (60_exceptions R231-R236). -/
inductive ModelFault where
  /-- `F_ILLEGAL_REQ` (R231). -/
  | illegalReq
  /-- `F_BUSY` (R232). -/
  | busy
  /-- `F_DATA_UNDERRUN` (R233). -/
  | dataUnderrun
  /-- `F_NOT_CONFIGURED` (R234). -/
  | notConfigured
  /-- `F_RECONFIGURE` (R235). -/
  | reconfigure
  /-- `F_HOOK_RANGE` (R236). -/
  | hookRange
  deriving DecidableEq, Repr

/-- The region registers (10_state R25). -/
structure Region where
  /-- `OP`: 4 bits (30_encoding R81) -/
  op : BitVec 4
  /-- `RX`: 32-bit two's complement -/
  rx : Word
  /-- `RY`: 32-bit two's complement -/
  ry : Word
  /-- `RW`: 32-bit two's complement -/
  rw : Word
  /-- `RH`: 32-bit two's complement -/
  rh : Word
  /-- `DLEN`: 32-bit unsigned -/
  dlen : Word
  /-- `FILL`: 8 bits -/
  fill : Byte
  /-- `DATA_IN`: the request's data bytes -/
  dataIn : List Byte
  /-- `P0`, fixed once validation passes -/
  p0 : Nat
  /-- `P1`, fixed once validation passes -/
  p1 : Nat
  /-- `NB`, fixed once validation passes -/
  nb : Nat
  /-- `COL_END`, fixed once validation passes -/
  colEnd : Nat
  deriving DecidableEq, Repr

/-- The loop registers (10_state R26). -/
structure Loop where
  /-- `PG` -/
  pg : Nat
  /-- `COL` -/
  col : Nat
  /-- `RP` -/
  rp : Nat
  /-- `CLEN` -/
  clen : Nat
  deriving DecidableEq, Repr

/-- The pixel buffer as address and byte pairs in one canonical form (`Memory.wf`, Machine/Ops.lean): addresses strictly
rising, no byte 0x00 listed. An unlisted address reads 0x00, the reset value of `BUF` (10_state R34). Log entry 12. -/
abbrev Memory := List Host.Cell

/-- The state of the block. -/
structure State where
  /-- The build parameters (00_scope R5). The MODEL's own field: they are no state of the block and no step writes it; held
  here so that a statement over all states is one over all builds. Log entry 1. -/
  build : Build
  /-- `CFG_VALID` (10_state R21). -/
  cfgValid : Bool
  /-- `CFG_DEV_ADDR` (10_state R22). -/
  cfgDevAddr : BitVec 7
  /-- `STATE` (10_state R24). -/
  state : SeqState
  /-- The region registers (10_state R25). -/
  region : Region
  /-- The loop registers (10_state R26). -/
  loop : Loop
  /-- `BUF` (10_state R27). -/
  buf : Memory
  /-- `RESULT` (10_state R28). -/
  result : ResultCode
  /-- `ST` (10_state R29). -/
  st : XferStatus
  /-- `FAULT`, a set: a list with no repeats (10_state R31). -/
  fault : List ModelFault
  /-- The request presented on the request port, taken by the next step (00_scope R8, 30_encoding R80). -/
  port : Option Request
  /-- The requests the serialising host has lined up, first one first, each presented when the block is idle (43_region_ops
  R202). The MODEL's own field; log entry 3. -/
  queue : List Request
  /-- The answers the transport will give to the next transfers. The MODEL's own field; log entry 4. -/
  answers : List XferStatus
  /-- How many answers were free values so far: the argument of `Config.transportAnswer`. The MODEL's own field; log entry 4. -/
  answered : Nat
  /-- Every transfer, diagnostic event and response since reset, in order (20_memory R60, 43_region_ops R201). DESIGN
  CHOICE: one list. Safe; log entry 11. -/
  out : List Event
  deriving DecidableEq, Repr

/-- Why the machine stops with a fault. -/
inductive Fault where
  /-- Raised by every step and every instruction of a block whose `FAULT` set is not empty: it takes no step (10_state R31,
  43_region_ops R190). `recorded` is that set. Safe. -/
  | stopped (recorded : List ModelFault)
  /-- Raised by the buffer write and by DATA when an address lies outside `0 .. CAP-1`, which does not exist (20_memory R50,
  R56). No step of a state that meets `State.Inv` raises it (20_memory R58). Safe. -/
  | bufferRange
  deriving DecidableEq, Repr

/-- Why the machine gives a step no meaning. -/
inductive Refusal where
  /-- An instruction the model has no meaning for yet. Raised by no arm. Safe. -/
  | notModelled (mnemonic : String)
  /-- Raised by every step and every instruction of a build that breaks a constraint of 00_scope R5: "a model gives it no
  meaning" (R6). Safe. -/
  | buildRefused
  /-- Raised by a step that takes a request whose words or data have no shape 30_encoding R80, R82 gives, from an idle
  block. Safe; log entry 5. -/
  | malformedRequest
  /-- Raised by the five wire transfers when it is not the transfer the sequencer issues in its state
  (42_transfer_engine R170). No step raises it. Safe; log entry 6. -/
  | outOfSequence
  deriving DecidableEq, Repr

/-- The region registers at reset (10_state R34: "a model sets 0"). -/
def Region.zero : Region where
  op := 0#4
  rx := 0#32
  ry := 0#32
  rw := 0#32
  rh := 0#32
  dlen := 0#32
  fill := 0#8
  dataIn := []
  p0 := 0
  p1 := 0
  nb := 0
  colEnd := 0

/-- The loop registers at reset (10_state R34) and at an acceptance (10_state R26). -/
def Loop.zero : Loop where
  pg := 0
  col := 0
  rp := 0
  clen := 0

/-- The block of build `b` right after reset (10_state R34, 70_reset_and_hazards R250-R251). -/
def State.resetOf (b : Build) : State where
  build := b
  cfgValid := false
  cfgDevAddr := 0#7
  state := .idle
  region := Region.zero
  loop := Loop.zero
  buf := []
  result := .resOk
  st := .pass
  fault := []
  port := none
  queue := []
  answers := []
  answered := 0
  out := []

/-- The machine right after reset, for the build of the spec's vectors (log entry 1). -/
def State.reset : State := State.resetOf Config.exampleBuild

end Sys2Proof.Machine
end

