-- ==== Sys2Proof/Machine/Operands.lean ====
section
/-! DEFINITION. What is computed from the build parameters and a request's operands: the derived parameters (00_scope R5-R6),
the geometry validator (40_validator), the placement of a region (41_buffer_packing), the command bytes
(42_transfer_engine R150-R151) and the chunk length (R155). -/
namespace Sys2Proof.Machine

/-- `ROWS` (00_scope R5). -/
def rows (b : Build) : Nat := b.pages * 8

/-- `CAP` (00_scope R5). -/
def cap (b : Build) : Nat := b.pages * b.cols

/-- The least `MAX_XFER` that carries the build's command transfers (20_memory R63, 92_eei_decisions D2). -/
def minXfer (b : Build) : Nat := if b.framing = .combined then 3 else 2

/-- The constraints of 00_scope R5 and R6, with `MAX_CHUNK = MAX_XFER - 1` (R5, 70_reset_and_hazards R255) and the bound of
20_memory R63 on `MAX_XFER`. DEDUCED: both are constraints of the build too. Safe; log entry 13. -/
def admitted (b : Build) : Bool :=
  b.cols == 128 && decide (1 ≤ b.pages) && decide (b.pages ≤ 8)
    && decide (1 ≤ b.maxChunk) && b.maxXfer == b.maxChunk + 1 && decide (minXfer b ≤ b.maxXfer)
    && b.pageBase &&& 0x07#8 == 0#8 && b.colLoBase &&& 0x0F#8 == 0#8 && b.colHiBase &&& 0x07#8 == 0#8

/-- The operation codes of the three region requests (30_encoding R82). -/
def opConfigure : BitVec 4 := 1#4
def opBitmap : BitVec 4 := 2#4
def opFill : BitVec 4 := 3#4
def opClear : BitVec 4 := 4#4
def opReadbuf : BitVec 4 := 5#4

/-- The validation errors, in the order of their checks (40_validator R115). -/
inductive GeomError where
  | row
  | col
  | len
  | oversize
  deriving DecidableEq, Repr

/-- The row check passes (40_validator R110). -/
def rowOk (b : Build) (y h : Int) : Bool :=
  decide (0 ≤ y) && decide (0 < h) && decide (y + h ≤ rows b) && decide (y % 8 = 0) && decide (h % 8 = 0)

/-- The column check passes (40_validator R111). -/
def colOk (b : Build) (x w : Int) : Bool :=
  decide (0 ≤ x) && decide (0 < w) && decide (x + w ≤ b.cols)

/-- The computed byte count `nb` (40_validator R112). -/
def byteCount (w h : Int) : Int := h / 8 * w

/-- The length check passes or is not run (40_validator R112, R120). -/
def lenOk (op : BitVec 4) (w h : Int) (dlen : Nat) : Bool :=
  op != opBitmap || decide ((dlen : Int) = byteCount w h)

/-- The capacity check passes (40_validator R113). -/
def capOk (b : Build) (w h : Int) : Bool := decide (byteCount w h ≤ cap b)

/-- `Validate` (40_validator R116); `none` is `RES_OK`. -/
def validate (b : Build) (op : BitVec 4) (x y w h : Int) (dlen : Nat) : Option GeomError :=
  if ¬ rowOk b y h then some .row
  else if ¬ colOk b x w then some .col
  else if ¬ lenOk op w h dlen then some .len
  else if ¬ capOk b w h then some .oversize
  else none

/-- `Validate` on the region registers. -/
def validateRegion (b : Build) (r : Region) : Option GeomError :=
  validate b r.op r.rx.toInt r.ry.toInt r.rw.toInt r.rh.toInt r.dlen.toNat

/-- `P0`, `P1`, `NB`, `COL_END` fixed when validation passes (40_validator R116). -/
def fixRegion (r : Region) : Region :=
  { r with
    p0 := (r.ry.toInt / 8).toNat
    p1 := ((r.ry.toInt + r.rh.toInt) / 8 - 1).toNat
    nb := (byteCount r.rw.toInt r.rh.toInt).toNat
    colEnd := (r.rx.toInt + r.rw.toInt).toNat }

/-- `B`, the region's base address (20_memory R55). Operands that passed validation are not negative, so `RX` is read
unsigned. -/
def baseAddr (b : Build) (r : Region) : Nat := r.p0 * b.cols + r.rx.toNat

/-- `Addr_S(i)` (41_buffer_packing R131). -/
def addrStrided (b : Build) (r : Region) (i : Nat) : Nat :=
  (r.p0 + i / r.rw.toNat) * b.cols + r.rx.toNat + i % r.rw.toNat

/-- `Addr_L(i)` (41_buffer_packing R132). -/
def addrLinear (b : Build) (r : Region) (i : Nat) : Nat := baseAddr b r + i

/-- `Addr(i)` (41_buffer_packing R131-R132). -/
def addr (b : Build) (r : Region) (i : Nat) : Nat :=
  match b.layout with
  | .linear  => addrLinear b r i
  | .strided => addrStrided b r i

/-- The bytes the buffer write has to place: the first `NB` of `DATA_IN` (41_buffer_packing R133), or `NB` copies of `FILL`
(R135, R136). Shorter than `NB` exactly when a BITMAP's data list is. -/
def regionBytes (r : Region) : List Byte :=
  if r.op = opBitmap then r.dataIn.take r.nb else List.replicate r.nb r.fill

/-- `PageCmd(p)` (42_transfer_engine R150). -/
def pageCmd (b : Build) (p : Nat) : Byte := b.pageBase ||| BitVec.ofNat 8 p

/-- `c[3:0]` and `c[6:4]` of a column address (30_encoding R91). -/
def colLow (c : Nat) : BitVec 4 := (BitVec.ofNat 7 c).extractLsb' 0 4
def colHigh (c : Nat) : BitVec 3 := (BitVec.ofNat 7 c).extractLsb' 4 3

/-- `ColLo(c)` and `ColHi(c)` (42_transfer_engine R151). -/
def colLoCmd (b : Build) (c : Nat) : Byte := b.colLoBase ||| (colLow c).setWidth 8
def colHiCmd (b : Build) (c : Nat) : Byte := b.colHiBase ||| (colHigh c).setWidth 8

/-- `CLEN` (42_transfer_engine R155). -/
def chunkLen (b : Build) (colEnd col : Nat) : Nat := min (colEnd - col) b.maxChunk

/-- `ceil_div` (00_scope R10). -/
def ceilDiv (a n : Nat) : Nat := (a + n - 1) / n

/-- The caller's packing of a region's pixels (41_buffer_packing R130): bit k of byte i is pixel `(y + 8*(i div w) + k,
x + (i mod w))` of `pix row column`. The block never computes it. -/
def packByte (pix : Nat → Nat → Bool) (x y w i : Nat) : Byte :=
  BitVec.ofFnLE (fun k : Fin 8 => pix (y + 8 * (i / w) + k.val) (x + i % w))

/-- `Pack` (41_buffer_packing R130). -/
def pack (pix : Nat → Nat → Bool) (x y w h : Nat) : List Byte :=
  (List.range (h / 8 * w)).map (packByte pix x y w)

end Sys2Proof.Machine
end

