-- ==== Sys2Proof/Machine/Flags.lean ====
section
/-! DEFINITION. The status values: the block has no condition codes (10_state R32); `RESULT`, `ST`, `FAULT` and `BUSY` are its
only status, and the numbers of the codes are given here (60_exceptions R221, R226). -/
namespace Sys2Proof.Machine

/-- `BUSY` (10_state R30). -/
def State.busy (s : State) : Bool := s.state != .idle

/-- The code byte of a result (60_exceptions R221). -/
def resultValue : ResultCode → Byte
  | .resOk       => 0#8
  | .errRow      => 1#8
  | .errCol      => 2#8
  | .errLen      => 3#8
  | .errOversize => 4#8
  | .errXfer     => 5#8

/-- The number of a diagnostic kind (60_exceptions R226). -/
def diagValue : DiagKind → Nat
  | .row      => 1
  | .col      => 2
  | .len      => 3
  | .oversize => 4
  | .xfer     => 5

/-- The result of a failed check (40_validator R110-R113). -/
def geomResult : GeomError → ResultCode
  | .row      => .errRow
  | .col      => .errCol
  | .len      => .errLen
  | .oversize => .errOversize

/-- The diagnostic kind of a failed check (60_exceptions R226). -/
def geomDiag : GeomError → DiagKind
  | .row      => .row
  | .col      => .col
  | .len      => .len
  | .oversize => .oversize

/-- A set with one more member: `FAULT` with a fault recorded (10_state R31). -/
def withFault (fs : List ModelFault) (f : ModelFault) : List ModelFault :=
  if f ∈ fs then fs else fs ++ [f]

end Sys2Proof.Machine
end

