-- ==== Sys2Proof/Machine/Ops.lean ====
section
/-! DEFINITION. The named operations: the buffer (20_memory), recording a model fault (60_exceptions R230), completing a
request (00_scope R12), accepting one (43_region_ops R190), and one transfer with its failure policy
(42_transfer_engine R165, R169). The block takes no trap and returns from none (60_exceptions R228-R229). -/
namespace Sys2Proof.Machine

abbrev Result := Host.Outcome State Fault Refusal

/-! ### The buffer -/

/-- The byte at an address; an unlisted one is 0x00. -/
def Memory.read : Memory → Nat → Byte
  | [], _          => 0#8
  | (k, v) :: m, a => if k = a then v else Memory.read m a

/-- The buffer with one byte written, in canonical form. -/
def Memory.write : Memory → Nat → Byte → Memory
  | [], a, v => if v = 0#8 then [] else [(a, v)]
  | (k, w) :: m, a, v =>
    if a < k then (if v = 0#8 then (k, w) :: m else (a, v) :: (k, w) :: m)
    else if a = k then (if v = 0#8 then m else (a, v) :: m)
    else (k, w) :: Memory.write m a v

/-- The canonical form from address `lo` up: addresses strictly rising, below `top`, no byte 0x00 listed. -/
def Memory.wfFrom (top : Nat) : Nat → Memory → Bool
  | _, []           => true
  | lo, (k, v) :: m => decide (lo ≤ k) && decide (k < top) && v != 0#8 && Memory.wfFrom top (k + 1) m

/-- The canonical form of a buffer of `top` bytes. -/
def Memory.wf (top : Nat) (m : Memory) : Bool := Memory.wfFrom top 0 m

/-- `MemRead(a, n)` (00_scope R12); `none` when the range leaves `0 .. CAP-1`. -/
def State.memRead (s : State) (a n : Nat) : Option (List Byte) :=
  if a + n ≤ cap s.build then some ((List.range n).map (fun i => s.buf.read (a + i))) else none

/-- `MemWrite` of `bytes`, the first of them the region's byte `i`, each at its `Addr` (41_buffer_packing R133, R135);
`none` when an address leaves `0 .. CAP-1`. -/
def placeBytes (b : Build) (r : Region) : List Byte → Nat → Memory → Option Memory
  | [], _, m      => some m
  | v :: vs, i, m =>
    if addr b r i < cap b then placeBytes b r vs (i + 1) (m.write (addr b r i) v) else none

/-! ### Outputs, completion, faults -/

/-- One event sent. -/
def State.emit (s : State) (e : Event) : State := { s with out := s.out ++ [e] }

/-- `return r` (00_scope R12), with READBUF's bytes (30_encoding R101): `RESULT` written, the response sent, `STATE` IDLE. -/
def State.finish (s : State) (r : ResultCode) (bytes : List Byte) : State :=
  { s with result := r, state := .idle, out := s.out ++ [.response (resultValue r) bytes] }

/-- `raise Fault(f)` (00_scope R12, 60_exceptions R230): the fault recorded, nothing else. DEDUCED: it is a
next state, after which the block stops (10_state R31). Safe; log entry 9. -/
def State.raise (s : State) (f : ModelFault) : State := { s with fault := withFault s.fault f }

/-- A block that can take a step: its build is admitted (00_scope R6) and `FAULT` is empty (10_state R31). -/
def live (s : State) (k : Result) : Result :=
  if admitted s.build then
    (if s.fault = [] then k else .fault (.stopped s.fault))
  else .refused .buildRefused

/-! ### Acceptance (43_region_ops R190) -/

/-- The first two lines of `Accept`: a stopped block takes no step; a request while busy records `F_BUSY`. -/
def accept (s : State) (k : Result) : Result :=
  live s (if s.busy then .next (s.raise .busy) else k)

/-- The loop registers zeroed and `OP` loaded. -/
def State.start (s : State) (op : BitVec 4) : State :=
  { s with loop := Loop.zero, region := { s.region with op := op } }

/-- A region request: `F_NOT_CONFIGURED` before CONFIGURE, else the region registers loaded and `STATE` CHECK. `load` has
`OP` and the operand registers of the request. DEDUCED: acceptance is one step, CHECK the next. Safe; log entry 10. -/
def acceptRegion (s : State) (load : Region) : Result :=
  accept s
    (if s.cfgValid then .next { s with loop := Loop.zero, region := load, state := .check }
     else .next (s.raise .notConfigured))

/-- A request that has no shape of 30_encoding R82: `F_BUSY` while busy, else refused by name. -/
def acceptMalformed (s : State) : Result := accept s (.refused .malformedRequest)

/-! ### Transfers -/

/-- The transport's answer to the next transfer and the state with it taken: the first listed one, else a free value. -/
def State.nextAnswer (s : State) : XferStatus :=
  match s.answers with
  | a :: _ => a
  | []     => Config.transportAnswer s.answered

def State.takeAnswer (s : State) : State :=
  match s.answers with
  | _ :: rest => { s with answers := rest }
  | []        => { s with answered := s.answered + 1 }

/-- The record of a transfer of `bytes` answered `a` (20_memory R61). -/
def State.transferEvent (s : State) (bytes : List Byte) (a : XferStatus) : Event :=
  .transfer s.cfgDevAddr bytes bytes.length true true a

/-- `x[ST] <- Xfer(L)` (20_memory R61). -/
def State.xfer (s : State) (bytes : List Byte) : State :=
  { s.takeAnswer with st := s.nextAnswer, out := s.out ++ [s.transferEvent bytes s.nextAnswer] }

/-- The `DIAG_XFER` event of a transfer of `n` bytes (60_exceptions R226). -/
def State.xferDiag (s : State) (kind : XKind) (n : Nat) : Event :=
  .diag .xfer (.transfer kind s.loop.pg s.loop.col n)

/-- The failure policy after a transfer (42_transfer_engine R165): after a PASS the rest `k`; after a FAIL the event, then
`k` under Continue and `return ERR_XFER` under Abort. -/
def afterXfer (s : State) (kind : XKind) (n : Nat) (k : State → State) : State :=
  if s.st = .fail then
    (if s.build.policy = .abort then (s.emit (s.xferDiag kind n)).finish .errXfer []
     else k (s.emit (s.xferDiag kind n)))
  else k s

/-- `Send(L, kind)` followed by `k` (42_transfer_engine R169). -/
def send (s : State) (bytes : List Byte) (kind : XKind) (k : State → State) : State :=
  afterXfer (s.xfer bytes) kind bytes.length k

/-! ### The transfer that is due (42_transfer_engine R170) -/

/-- PAGE_BASE[7:3], COL_LO_BASE[7:4], COL_HI_BASE[7:3] (30_encoding R88-R90). -/
def pageField (b : Build) : BitVec 5 := b.pageBase.extractLsb' 3 5
def colLoField (b : Build) : BitVec 4 := b.colLoBase.extractLsb' 4 4
def colHiField (b : Build) : BitVec 5 := b.colHiBase.extractLsb' 3 5

/-- The transfer the sequencer issues in its state; `none` in IDLE, CHECK and BUFWR, and where DATA's bytes leave the
buffer. -/
def dueTransfer (s : State) : Option Instr :=
  match s.state with
  | .idle    => none
  | .check   => none
  | .bufwr   => none
  | .page    => some (.pageSelect (pageField s.build) (BitVec.ofNat 3 s.loop.pg))
  | .colLo   => some (.colLo (colLoField s.build) (colLow s.loop.col))
  | .colHi   => some (.colHi (colHiField s.build) (colHigh s.loop.col))
  | .colBoth =>
    some (.colSelectCombined (colLoField s.build) (colLow s.loop.col) (colHiField s.build) (colHigh s.loop.col))
  | .data    => (s.memRead s.loop.rp (chunkLen s.build s.region.colEnd s.loop.col)).map .data

/-- A wire transfer runs where it is the one that is due; elsewhere the spec gives it no effect (log entry 6). -/
def issue (s : State) (i : Instr) (t : State) : Result :=
  live s (if dueTransfer s = some i then .next t else .refused .outOfSequence)

end Sys2Proof.Machine
end

