-- ==== Sys2Proof/Machine/Engine.lean ====
section
/-! DEFINITION. The chunked transfer engine (42_transfer_engine): the five wire transfers, each the action of one state of
R170, and the engine as one function (R169). -/
namespace Sys2Proof.Machine

/-- `CS` of 42_transfer_engine R170. -/
def colSelectState (b : Build) : SeqState :=
  match b.framing with
  | .separate => .colLo
  | .combined => .colBoth

/-- The column and, under Strided, the read pointer at the start of page `PG` (42_transfer_engine R153). -/
def State.startPage (s : State) : State :=
  { s with
    loop := { s.loop with
      col := s.region.rx.toNat
      rp := match s.build.layout with
        | .linear  => s.loop.rp
        | .strided => s.loop.pg * s.build.cols + s.region.rx.toNat } }

/-- The chunk length set before the transfer (42_transfer_engine R155). -/
def State.setChunk (s : State) : State :=
  { s with loop := { s.loop with clen := chunkLen s.build s.region.colEnd s.loop.col } }

/-- `COL` and `RP` advanced by the chunk (42_transfer_engine R157). -/
def State.advance (s : State) : State :=
  { s with loop := { s.loop with col := s.loop.col + s.loop.clen, rp := s.loop.rp + s.loop.clen } }

/-- What follows a chunk in state DATA (42_transfer_engine R158, R170): the next chunk, the next page, or completion. -/
def State.nextChunk (s : State) : State :=
  if s.loop.col < s.region.colEnd then { s with state := colSelectState s.build }
  else if s.loop.pg < s.region.p1 then { s with state := .page, loop := { s.loop with pg := s.loop.pg + 1 } }
  else s.finish .resOk []

/-- PAGE_SELECT, the action of state PAGE (42_transfer_engine R150, R153, R170). -/
def execPageSelect (base : BitVec 5) (p : BitVec 3) (s : State) : Result :=
  issue s (.pageSelect base p)
    (send s.startPage (pageSelectBytes base p) .page (fun t => { t with state := colSelectState t.build }))

/-- COL_LO, the action of state COLLO (42_transfer_engine R151, R170). -/
def execColLo (base : BitVec 4) (c : BitVec 4) (s : State) : Result :=
  issue s (.colLo base c) (send s (colLoBytes base c) .colLo (fun t => { t with state := .colHi }))

/-- COL_HI, the action of state COLHI (42_transfer_engine R151, R170). -/
def execColHi (base : BitVec 5) (c : BitVec 3) (s : State) : Result :=
  issue s (.colHi base c) (send s (colHiBytes base c) .colHi (fun t => { t with state := .data }))

/-- COL_SELECT_COMBINED, the action of state COLBOTH (42_transfer_engine R151, R170). -/
def execColSelectCombined (loBase c : BitVec 4) (hiBase : BitVec 5) (d : BitVec 3) (s : State) : Result :=
  issue s (.colSelectCombined loBase c hiBase d)
    (send s (colBothBytes loBase c hiBase d) .colBoth (fun t => { t with state := .data }))

/-- DATA, the action of state DATA (42_transfer_engine R155-R158, R170). -/
def execData (bytes : List Byte) (s : State) : Result :=
  issue s (.data bytes) (send s.setChunk (dataBytes bytes) .data (fun t => t.advance.nextChunk))

/-! ### The engine as one function (42_transfer_engine R169) -/

/-- The chunk's bytes as the engine reads them. -/
def State.chunkBytes (s : State) : List Byte :=
  (s.memRead s.loop.rp (chunkLen s.build s.region.colEnd s.loop.col)).getD []

/-- The column-select of column `COL` (42_transfer_engine R169). -/
def sendColSelect (s : State) (k : State → State) : State :=
  match s.build.framing with
  | .separate =>
    send s (colLoBytes (colLoField s.build) (colLow s.loop.col)) .colLo fun t =>
      send t (colHiBytes (colHiField t.build) (colHigh t.loop.col)) .colHi k
  | .combined =>
    send s (colBothBytes (colLoField s.build) (colLow s.loop.col) (colHiField s.build) (colHigh s.loop.col)) .colBoth k

/-- One chunk's data transfer and the advance after it (42_transfer_engine R169). -/
def sendChunk (s : State) (k : State → State) : State :=
  send s.setChunk (dataBytes s.chunkBytes) .data (fun t => k t.advance)

/-- The while loop of a page, `fuel` bounding its rounds by the columns left (42_transfer_engine R169). -/
def engineColumns : Nat → State → (State → State) → State
  | 0, s, k        => k s
  | fuel + 1, s, k =>
    if s.loop.col < s.region.colEnd then
      sendColSelect s fun t => sendChunk t fun u => engineColumns fuel u k
    else k s

/-- The for loop over pages `pg, pg + 1, ..`, `n` of them (42_transfer_engine R169). -/
def enginePages : Nat → Nat → State → State
  | 0, _, s      => s.finish .resOk []
  | n + 1, pg, s =>
    let u := State.startPage { s with loop := { s.loop with pg := pg } }
    send u (pageSelectBytes (pageField u.build) (BitVec.ofNat 3 u.loop.pg)) .page fun t =>
      engineColumns t.region.colEnd t fun v => enginePages n (pg + 1) v

/-- `Engine()` (42_transfer_engine R169). -/
def engine (s : State) : State := enginePages (s.region.p1 + 1 - s.region.p0) s.region.p0 s

end Sys2Proof.Machine
end

