-- ==== Sys2Proof/Machine/Requests.lean ====
section
/-! DEFINITION. The requests the host presents (43_region_ops): acceptance, dispatch and, for the two that need no sequencer,
the whole effect. A region request's further stages are the sequencer's steps (Machine/Sequencer.lean, Machine/Engine.lean). -/
namespace Sys2Proof.Machine

/-- CONFIGURE (43_region_ops R196). -/
def execConfigure (devAddr : BitVec 7) (s : State) : Result :=
  accept s
    (if s.cfgValid then .next ((s.start opConfigure).raise .reconfigure)
     else .next (({ s.start opConfigure with cfgDevAddr := devAddr, cfgValid := true }).finish .resOk []))

/-- The region registers an accepted BITMAP loads (43_region_ops R190-R191, 30_encoding R84). -/
def loadBitmap (r : Region) (x y width height dataLength : Word) (data : List Byte) : Region :=
  { r with op := opBitmap, rx := x, ry := y, rw := width, rh := height, dlen := dataLength, dataIn := data }

/-- BITMAP (43_region_ops R191). -/
def execBitmap (x y width height dataLength : Word) (data : List Byte) (s : State) : Result :=
  acceptRegion s (loadBitmap s.region x y width height dataLength data)

/-- The region registers of a fill; its `DLEN` is 0 (43_region_ops R193: `Validate(FILL, x, y, width, height, 0)`). -/
def loadFill (r : Region) (op : BitVec 4) (x y width height : Word) (fillByte : Byte) : Region :=
  { r with op := op, rx := x, ry := y, rw := width, rh := height, dlen := 0#32, fill := fillByte }

/-- FILL (43_region_ops R193). -/
def execFill (x y width height : Word) (fillByte : Byte) (s : State) : Result :=
  acceptRegion s (loadFill s.region opFill x y width height fillByte)

/-- CLEAR: FILL's path with `(0, 0, COLS, ROWS, 0)` under its own operation code (43_region_ops R194, 30_encoding R100). -/
def execClear (s : State) : Result :=
  acceptRegion s
    (loadFill s.region opClear 0#32 0#32 (BitVec.ofNat 32 s.build.cols) (BitVec.ofNat 32 (rows s.build)) 0#8)

/-- READBUF (43_region_ops R200): `none` of `memRead` is `offset + count > CAP`. -/
def execReadbuf (offset count : Word) (s : State) : Result :=
  accept s
    (match s.memRead offset.toNat count.toNat with
     | none       => .next ((s.start opReadbuf).raise .hookRange)
     | some bytes => .next ((s.start opReadbuf).finish .resOk bytes))

/-- RESERVED_OP: an illegal descriptor records `F_ILLEGAL_REQ` (30_encoding R94, 60_exceptions R231), before any register is
loaded (43_region_ops R190). -/
def execReservedOp (_r : Request) (s : State) : Result :=
  accept s (.next (s.raise .illegalReq))

end Sys2Proof.Machine
end

