-- ==== Sys2Proof/Machine/Sequencer.lean ====
section
/-! DEFINITION. The sequencer's steps that are no instruction of the table: CHECK (40_validator R116-R119), BUFWR
(41_buffer_packing R133-R136), waiting in IDLE (70_reset_and_hazards R251); taking a request from the port; and placing an
instruction where the next step runs it. -/
namespace Sys2Proof.Machine

/-- The diagnostic event of a failed check (40_validator R117, 60_exceptions R226). -/
def geomEvent (e : GeomError) (r : Region) : Event :=
  .diag (geomDiag e) (.region r.rx.toInt r.ry.toInt r.rw.toInt r.rh.toInt r.dlen.toNat)

/-- State CHECK (40_validator R116, R117). -/
def State.checked (s : State) : State :=
  match validateRegion s.build s.region with
  | none   => { s with region := fixRegion s.region, state := .bufwr }
  | some e => (s.emit (geomEvent e s.region)).finish (geomResult e) []

def stepCheck (s : State) : Result := live s (.next s.checked)

/-- State BUFWR (41_buffer_packing R133, R135): the bytes placed; then `F_DATA_UNDERRUN` if the data list was short, the bytes
already written staying, else `RP`, `PG` set and `STATE` PAGE. -/
def stepBufwr (s : State) : Result :=
  live s
    (match placeBytes s.build s.region (regionBytes s.region) 0 s.buf with
     | none   => .fault .bufferRange
     | some m =>
       if (regionBytes s.region).length < s.region.nb then .next ({ s with buf := m }.raise .dataUnderrun)
       else .next { s with
         buf := m
         loop := { s.loop with rp := baseAddr s.build s.region, pg := s.region.p0 }
         state := .page })

/-- An idle block with no request waits (70_reset_and_hazards R251). -/
def stepIdle (s : State) : Result := live s (.next s)

/-- The request the host presents to this step and the state with it taken: the one on the port at any time, else, when the
block is idle, the next of the host's line (43_region_ops R202). -/
def State.offered (s : State) : Option (Request × State) :=
  match s.port with
  | some r => some (r, { s with port := none })
  | none   =>
    match s.queue with
    | []        => none
    | r :: rest => if s.state = .idle then some (r, { s with queue := rest }) else none

/-- A state whose next step runs the instruction `i`: a request is presented on the port; for a wire transfer the sequencer
is put where it issues that transfer, with the bases and registers that give its fields (log entry 2). -/
def placeInstr (i : Instr) (s : State) : State :=
  match i with
  | .pageSelect base p =>
    { s with port := none, state := .page, build := { s.build with pageBase := base ++ 0#3 },
             loop := { s.loop with pg := p.toNat } }
  | .colLo base c =>
    { s with port := none, state := .colLo, build := { s.build with colLoBase := base ++ 0#4, framing := .separate },
             loop := { s.loop with col := c.toNat } }
  | .colHi base c =>
    { s with port := none, state := .colHi, build := { s.build with colHiBase := base ++ 0#3, framing := .separate },
             loop := { s.loop with col := 16 * c.toNat } }
  | .colSelectCombined lb c hb d =>
    { s with port := none, state := .colBoth,
             build := { s.build with colLoBase := lb ++ 0#4, colHiBase := hb ++ 0#3, framing := .combined },
             loop := { s.loop with col := 16 * d.toNat + c.toNat } }
  | .data bytes =>
    { s with port := none, state := .data, region := { s.region with colEnd := bytes.length },
             loop := { s.loop with col := 0, rp := 0 },
             buf := (bytes.zipIdx).foldl (fun m vi => m.write vi.2 vi.1) s.buf }
  | .configure _ | .bitmap _ _ _ _ _ _ | .fill _ _ _ _ _ | .clear | .readbuf _ _ | .reservedOp _ =>
    match encode i with
    | .request r  => { s with port := some r }
    | .transfer _ => s

end Sys2Proof.Machine
end

