-- ==== Sys2Proof/Machine/Dispatch.lean ====
section
/-! DEFINITION. One arm per instruction. -/
namespace Sys2Proof.Machine

def exec (i : Instr) (s : State) : Host.Outcome State Fault Refusal :=
  match i with
  | .configure a => Sys2Proof.Machine.execConfigure a s
  | .bitmap x y w h n d => Sys2Proof.Machine.execBitmap x y w h n d s
  | .fill x y w h v => Sys2Proof.Machine.execFill x y w h v s
  | .clear => Sys2Proof.Machine.execClear s
  | .readbuf o n => Sys2Proof.Machine.execReadbuf o n s
  | .reservedOp r => Sys2Proof.Machine.execReservedOp r s
  | .pageSelect b p => Sys2Proof.Machine.execPageSelect b p s
  | .colLo b c => Sys2Proof.Machine.execColLo b c s
  | .colHi b c => Sys2Proof.Machine.execColHi b c s
  | .colSelectCombined l c b d => Sys2Proof.Machine.execColSelectCombined l c b d s
  | .data bytes => Sys2Proof.Machine.execData bytes s

end Sys2Proof.Machine
end

