-- ==== Sys2Proof/Machine/Cycle.lean ====
section
/-! DEFINITION. What one step does: a request that is presented is decoded and accepted; else the sequencer acts in its state
(42_transfer_engine R170), running the wire transfer that is due. -/
namespace Sys2Proof.Machine

/-- The sequencer's step when no request is presented. -/
def sequencerStep (s : State) : Result :=
  match s.state with
  | .idle  => stepIdle s
  | .check => stepCheck s
  | .bufwr => stepBufwr s
  | .page | .colLo | .colHi | .colBoth | .data =>
    match dueTransfer s with
    | some i => exec i s
    | none   => live s (.fault .bufferRange)

/-- A presented request: decoded, then accepted by its instruction's meaning (43_region_ops R190). -/
def present (r : Request) (s : State) : Result :=
  match decodeRequest r with
  | .ok i    => exec i s
  | .error _ => acceptMalformed s

/-- One step of the block. -/
def cycle (s : State) : Result :=
  match s.offered with
  | some (r, t) => present r t
  | none        => sequencerStep s

/-- The instruction of a table word where the next step runs it (log entry 2). -/
def placeTableWord (s : State) (nbits w : Nat) : State :=
  match decodeTableWord nbits w with
  | some i => placeInstr i s
  | none   => s

end Sys2Proof.Machine
end

