-- ==== Sys2Proof/Safety.lean ====
section
/-! DEFINITION. The terms claims use: the invariant of the block, the end of a request (43_region_ops R201), and what a region
request sends, written out from the rules (42_transfer_engine R161-R164). -/
namespace Sys2Proof.Machine

/-- The operations that run the sequencer (30_encoding R82). -/
abbrev Region.opOk (r : Region) : Prop := r.op = opBitmap ∨ r.op = opFill ∨ r.op = opClear

/-- A region that passed validation, with its derived registers fixed (40_validator R116, 10_state R25). -/
abbrev Region.ok (b : Build) (r : Region) : Prop := r.opOk ∧ validateRegion b r = none ∧ fixRegion r = r

/-- The states of the engine (42_transfer_engine R170). -/
abbrev SeqState.engine (q : SeqState) : Prop :=
  q = .page ∨ q = .colLo ∨ q = .colHi ∨ q = .colBoth ∨ q = .data

/-- The states between a page-select and the end of its page. -/
abbrev SeqState.chunk (q : SeqState) : Prop := q = .colLo ∨ q = .colHi ∨ q = .colBoth ∨ q = .data

/-- The index, in the region's byte sequence, of the byte at column `col` of page `pg` (20_memory R52). -/
def regionIndex (r : Region) (pg col : Nat) : Nat := (pg - r.p0) * r.rw.toNat + (col - r.rx.toNat)

/-- `BUF` holds every byte of the region at its `Addr` (41_buffer_packing R138, R139). -/
abbrev State.placed (s : State) : Prop :=
  (regionBytes s.region).length = s.region.nb ∧
  ∀ i, i < s.region.nb → (regionBytes s.region)[i]? = some (s.buf.read (addr s.build s.region i))

/-- The invariant of the block: the build is admitted, the buffer canonical, at most one fault recorded; while a request runs
the block is configured and the operation is a region request; from BUFWR on the region is valid and its derived registers
fixed; in the engine the buffer holds the region's bytes and the loop registers are inside the region; the framing picks the
column states. -/
structure State.Inv (s : State) : Prop where
  build   : admitted s.build = true
  memory  : s.buf.wf (cap s.build) = true
  faults  : s.fault.length ≤ 1
  running : s.state ≠ .idle → s.cfgValid = true ∧ s.region.opOk
  region  : s.state ≠ .idle → s.state ≠ .check → s.region.ok s.build
  placed  : s.state.engine → s.placed
  pages   : s.state.engine → s.region.p0 ≤ s.loop.pg ∧ s.loop.pg ≤ s.region.p1
  pointer : s.state = .page → s.build.layout = .linear →
    s.loop.rp = addr s.build s.region (regionIndex s.region s.loop.pg s.region.rx.toNat)
  columns : s.state.chunk → s.region.rx.toNat ≤ s.loop.col ∧ s.loop.col < s.region.colEnd ∧
    s.loop.rp = addr s.build s.region (regionIndex s.region s.loop.pg s.loop.col)
  framing : (s.state = .colLo ∨ s.state = .colHi → s.build.framing = .separate) ∧
    (s.state = .colBoth → s.build.framing = .combined)

/-- A block at rest: no request in progress and no fault recorded. A faulted block is never at rest (43_region_ops R201). -/
abbrev State.ended (s : State) : Prop := s.state = .idle ∧ s.fault = []

/-- Nothing more will be presented. -/
abbrev State.quiet (s : State) : Prop := s.port = none ∧ s.queue = []

/-- A block that accepts a request: an admitted build, no fault, idle. -/
abbrev State.ready (s : State) : Prop := admitted s.build = true ∧ s.fault = [] ∧ s.state = .idle

/-- A block that runs (00_scope R6, 10_state R31). -/
abbrev State.runs (s : State) : Prop := admitted s.build = true ∧ s.fault = []

/-- The instructions the host presents; the others are the sequencer's transfers. -/
def isRequest (i : Instr) : Bool :=
  match encode i with
  | .request _  => true
  | .transfer _ => false

/-- Where in the sequence of 42_transfer_engine R170 a transfer stands: what a bus reader knows of it (30_encoding R95). -/
def positionOf : SeqState → XKind
  | .colLo   => .colLo
  | .colHi   => .colHi
  | .colBoth => .colBoth
  | .data    => .data
  | .idle | .check | .bufwr | .page => .page

/-- What 42_transfer_engine R165 makes of a transfer of `bytes` from `s`: it is recorded with its answer; after a PASS the
rest of the step's row in R170 follows; after a FAIL the event, then the rest under Continue, or `ERR_XFER` under Abort. -/
def transferOutcome (s : State) (bytes : List Byte) (kind : XKind) (rest : State → State) : State :=
  let sent := { s.takeAnswer with
    st := s.nextAnswer
    out := s.out ++ [.transfer s.cfgDevAddr bytes bytes.length true true s.nextAnswer] }
  let event : Event := .diag .xfer (.transfer kind s.loop.pg s.loop.col bytes.length)
  match s.nextAnswer, s.build.policy with
  | .pass, _      => rest sent
  | .fail, .cont  => rest { sent with out := sent.out ++ [event] }
  | .fail, .abort =>
    { sent with result := .errXfer, state := .idle, out := sent.out ++ [event, .response 5#8 []] }

/-- The state of a request accepted as `R190` says: the loop registers zeroed, `region` loaded, `STATE` CHECK. -/
def State.acceptedAs (s : State) (region : Region) : State :=
  { s with loop := { pg := 0, col := 0, rp := 0, clen := 0 }, region := region, state := .check }

/-- The byte lists of the transfers among events, in order. -/
def transfersOf : List Event → List (List Byte)
  | []                                  => []
  | .transfer _ bytes _ _ _ _ :: es     => bytes :: transfersOf es
  | .diag _ _ :: es                     => transfersOf es
  | .response _ _ :: es                 => transfersOf es

/-- The pixel bytes of data transfers, in order (42_transfer_engine R160). -/
def pixelBytes : List (List Byte) → List Byte
  | []            => []
  | [] :: ts      => pixelBytes ts
  | (m :: d) :: ts => if m = Config.dataMarker then d ++ pixelBytes ts else pixelBytes ts

/-- The number of chunks of a page, `t` (42_transfer_engine R161). -/
def chunksPerPage (b : Build) (r : Region) : Nat := ceilDiv r.rw.toNat b.maxChunk

/-- The transfers of a column-select, `s` (42_transfer_engine R163). -/
def colSelectCount (b : Build) : Nat := if b.framing = .separate then 2 else 1

/-- The pages of a region, `n` (42_transfer_engine R163). -/
def pageCount (r : Region) : Nat := r.p1 + 1 - r.p0

/-- `n * (1 + t*(s+1))` (42_transfer_engine R163). -/
def transferCount (b : Build) (r : Region) : Nat :=
  pageCount r * (1 + chunksPerPage b r * (colSelectCount b + 1))

/-- The transfers of a column-select of column `c` (30_encoding R91, 42_transfer_engine R151). -/
def colSelectTransfers (b : Build) (c : Nat) : List (List Byte) :=
  if b.framing = .separate then
    [[Config.cmdMarker, colLoCmd b c], [Config.cmdMarker, colHiCmd b c]]
  else [[Config.cmdMarker, colLoCmd b c, colHiCmd b c]]

/-- The bytes of chunk `k` of the page `j` pages below the first (42_transfer_engine R161). -/
def chunkOf (b : Build) (r : Region) (j k : Nat) : List Byte :=
  ((regionBytes r).drop (j * r.rw.toNat + k * b.maxChunk)).take (min b.maxChunk (r.rw.toNat - k * b.maxChunk))

/-- The transfers of one page: its page-select, then for each chunk the column-select and the data (42_transfer_engine
R162, R164). -/
def pageTransfers (b : Build) (r : Region) (j : Nat) : List (List Byte) :=
  [Config.cmdMarker, pageCmd b (r.p0 + j)] ::
    (List.range (chunksPerPage b r)).flatMap (fun k =>
      colSelectTransfers b (r.rx.toNat + k * b.maxChunk) ++ [Config.dataMarker :: chunkOf b r j k])

/-- The transfers of a region request, page after page (42_transfer_engine R164). -/
def regionTransfers (b : Build) (r : Region) : List (List Byte) :=
  (List.range (pageCount r)).flatMap (pageTransfers b r)

end Sys2Proof.Machine
end

