-- ==== Sys2Proof/Certificates/Slice0/Obligations.lean ====
section
/-! DEFINITION. The statements for the provers, each with the rule of the spec it formalises. -/

open Sys2Proof Sys2Proof.Machine

/-! ### Reset, and when the block takes a step -/

/-- 10_state R34, 70_reset_and_hazards R250-R251: the value of every piece of state after reset, for every build; the model's
choice (log entry 8): `DATA_IN` is the empty list. -/
def Obligations.ResetLeavesTheTableOfValues : Prop :=
  State.reset = State.resetOf Config.exampleBuild ∧
  ∀ b : Build,
    let s := State.resetOf b
    s.cfgValid = false ∧ s.cfgDevAddr = 0#7 ∧ (∀ a, s.buf.read a = 0x00#8) ∧ s.state = .idle ∧
    s.region = ⟨0#4, 0#32, 0#32, 0#32, 0#32, 0#32, 0#8, [], 0, 0, 0, 0⟩ ∧ s.loop = ⟨0, 0, 0, 0⟩ ∧
    s.result = .resOk ∧ s.st = .pass ∧ s.fault = [] ∧ s.out = [] ∧ s.build = b

/-- The invariant holds at reset of every admitted build. -/
def Obligations.ResetMeetsTheInvariant : Prop :=
  ∀ b : Build, admitted b = true → (State.resetOf b).Inv

/-- 70_reset_and_hazards R251: after reset, and whenever no request is presented, the idle block waits. -/
def Obligations.IdleBlockWaitsForARequest : Prop :=
  ∀ s : State, s.ready → s.quiet → step s = .next s

/-- 10_state R31, 43_region_ops R190: a block with a nonempty `FAULT` takes no step and runs no instruction. -/
def Obligations.FaultedBlockTakesNoStep : Prop :=
  ∀ s : State, admitted s.build = true → s.fault ≠ [] →
    step s = .fault (.stopped s.fault) ∧ ∀ i, exec i s = .fault (.stopped s.fault)

/-- 00_scope R6: a build that breaks a constraint of R5 is refused; the model gives it no meaning. -/
def Obligations.BuildOutsideTheConstraintsIsRefused : Prop :=
  ∀ s : State,
    (s.build.pages < 1 ∨ 8 < s.build.pages ∨ s.build.maxChunk < 1 ∨ s.build.cols ≠ 128 ∨
      s.build.pageBase &&& 0x07#8 ≠ 0#8 ∨ s.build.colLoBase &&& 0x0F#8 ≠ 0#8 ∨ s.build.colHiBase &&& 0x07#8 ≠ 0#8) →
    step s = .refused .buildRefused ∧ ∀ i, exec i s = .refused .buildRefused

/-- A presented request is decoded and its instruction run, the port (or the host's line) with that request taken. -/
def Obligations.StepRunsThePresentedRequest : Prop :=
  ∀ (s : State) (r : Request) (i : Instr), decodeRequest r = .ok i →
    (s.port = some r → step s = exec i { s with port := none }) ∧
    (s.port = none → s.state = .idle → ∀ rest, s.queue = r :: rest → step s = exec i { s with queue := rest })

/-- With no request presented, a step in the engine's states runs the transfer that is due there; a reader of the bus who
knows the build and the position reads that transfer's bytes as that instruction. -/
def Obligations.StepRunsTheDueTransfer : Prop :=
  ∀ (s : State) (i : Instr), s.Inv → s.port = none → dueTransfer s = some i →
    step s = exec i s ∧ decode s.build (positionOf s.state) (encode i) = .ok i

/-- The model's choice (log entry 5): a request whose words have no shape of 30_encoding R82 is refused by name when idle. -/
def Obligations.MalformedRequestIsRefused : Prop :=
  ∀ (s : State) (r : Request) (e : DecodeError), s.ready → s.port = some r → decodeRequest r = .error e →
    step s = .refused .malformedRequest

/-! ### Requests -/

/-- 43_region_ops R196: CONFIGURE writes the address and `CFG_VALID` and answers `RES_OK`, with no transfer, no diagnostic
event and no buffer write; OP is loaded and the loop registers zeroed by acceptance (R190). -/
def Obligations.ConfigureSuppliesTheAddress : Prop :=
  ∀ (s : State) (a : BitVec 7), s.ready → s.cfgValid = false →
    exec (.configure a) s = .next { s with
      cfgDevAddr := a
      cfgValid := true
      region := { s.region with op := 1#4 }
      loop := ⟨0, 0, 0, 0⟩
      result := .resOk
      out := s.out ++ [.response 0#8 []] }

/-- 60_exceptions R235: a CONFIGURE after a successful CONFIGURE records `F_RECONFIGURE`; the address stays. -/
def Obligations.SecondConfigureRecordsItsFault : Prop :=
  ∀ (s : State) (a : BitVec 7), s.ready → s.cfgValid = true →
    exec (.configure a) s = .next { s with
      region := { s.region with op := 1#4 }
      loop := ⟨0, 0, 0, 0⟩
      fault := [.reconfigure] }

/-- 60_exceptions R234: BITMAP, FILL and CLEAR before a successful CONFIGURE record `F_NOT_CONFIGURED` and do nothing else. -/
def Obligations.RegionRequestBeforeConfigureFaults : Prop :=
  ∀ s : State, s.ready → s.cfgValid = false →
    (∀ x y w h n d, exec (.bitmap x y w h n d) s = .next { s with fault := [.notConfigured] }) ∧
    (∀ x y w h v, exec (.fill x y w h v) s = .next { s with fault := [.notConfigured] }) ∧
    exec .clear s = .next { s with fault := [.notConfigured] }

/-- 60_exceptions R232: any request presented while `STATE` is not IDLE records `F_BUSY` and does nothing else. -/
def Obligations.RequestWhileBusyFaults : Prop :=
  ∀ s : State, s.runs → s.state ≠ .idle →
    (∀ i, isRequest i = true → exec i s = .next { s with fault := [.busy] }) ∧
    (∀ r, s.port = some r → step s = .next { s with port := none, fault := [.busy] })

/-- 30_encoding R94, 60_exceptions R231: a descriptor with a reserved `OP`, or with a reserved bit of `w0`, of CONFIGURE's
`w1` or of FILL's `w5` that is 1, records `F_ILLEGAL_REQ` and does nothing else, whatever the block is configured to. -/
def Obligations.IllegalDescriptorFaults : Prop :=
  ∀ (s : State) (w0 : Word) (rest : List Word) (d : List Byte), s.ready → s.port = some ⟨w0 :: rest, d⟩ → rest.length ≤ 5 →
    ((∃ k : BitVec 4, w0.extractLsb' 0 4 = k ∧ (k = 0#4 ∨ 6#4 ≤ k)) ∨ w0.extractLsb' 4 28 ≠ 0#28 ∨
      (w0.extractLsb' 0 4 = 1#4 ∧ d = [] ∧ ∃ w1, rest = [w1] ∧ w1.extractLsb' 7 25 ≠ 0#25) ∨
      (w0.extractLsb' 0 4 = 3#4 ∧ d = [] ∧ ∃ x y w h w5, rest = [x, y, w, h, w5] ∧ w5.extractLsb' 8 24 ≠ 0#24)) →
    step s = .next { s with port := none, fault := [.illegalReq] }

/-- 30_encoding R94: RESERVED_OP as an instruction: it records `F_ILLEGAL_REQ`; every register, the buffer and the outputs
stay. -/
def Obligations.ReservedOpRecordsItsFault : Prop :=
  ∀ (s : State) (r : Request), s.ready → exec (.reservedOp r) s = .next { s with fault := [.illegalReq] }

/-- 43_region_ops R190-R191: an accepted BITMAP loads its operands and its data list and goes to CHECK. -/
def Obligations.BitmapIsAccepted : Prop :=
  ∀ (s : State) (x y w h n : Word) (d : List Byte), s.ready → s.cfgValid = true →
    exec (.bitmap x y w h n d) s = .next (s.acceptedAs { s.region with
      op := 2#4, rx := x, ry := y, rw := w, rh := h, dlen := n, dataIn := d })

/-- 43_region_ops R190, R193: an accepted FILL loads its operands, with `dataLength` 0, and goes to CHECK. -/
def Obligations.FillIsAccepted : Prop :=
  ∀ (s : State) (x y w h : Word) (v : Byte), s.ready → s.cfgValid = true →
    exec (.fill x y w h v) s = .next (s.acceptedAs { s.region with
      op := 3#4, rx := x, ry := y, rw := w, rh := h, dlen := 0#32, fill := v })

/-- 43_region_ops R194: CLEAR is accepted as FILL of `(0, 0, COLS, ROWS, 0)` under its own operation code, and its region
passes validation. -/
def Obligations.ClearIsAcceptedAndAlwaysValid : Prop :=
  ∀ s : State, s.ready → s.cfgValid = true →
    ∃ t, exec .clear s = .next t ∧
      t = s.acceptedAs { s.region with
        op := 4#4, rx := 0#32, ry := 0#32, rw := BitVec.ofNat 32 s.build.cols,
        rh := BitVec.ofNat 32 (s.build.pages * 8), dlen := 0#32, fill := 0#8 } ∧
      t.region.rw.toNat = s.build.cols ∧ t.region.rh.toNat = s.build.pages * 8 ∧
      validateRegion t.build t.region = none

/-- 30_encoding R100: CLEAR has the effect of `FILL 0, 0, COLS, ROWS, 0` in every respect but its operation code: after any
number of steps with nothing more presented. -/
def Obligations.ClearRunsAsFillOfTheSurface : Prop :=
  ∀ (s t u : State) (k : Nat), s.ready → s.quiet →
    exec .clear s = .next t →
    exec (.fill 0#32 0#32 (BitVec.ofNat 32 s.build.cols) (BitVec.ofNat 32 (s.build.pages * 8)) 0#8) s = .next u →
    s.cfgValid = true →
    ∀ t', Host.Core.run core k t = .next t' →
      Host.Core.run core k u = .next { t' with region := { t'.region with op := 3#4 } }

/-- 43_region_ops R200: READBUF of a range inside the buffer answers `RES_OK` with the bytes of the range, and changes
nothing but what acceptance does and `RESULT`; it needs no CONFIGURE. -/
def Obligations.ReadbufAnswersTheBytes : Prop :=
  ∀ (s : State) (off cnt : Word), s.ready → off.toNat + cnt.toNat ≤ cap s.build →
    ∃ bytes : List Byte, bytes.length = cnt.toNat ∧
      (∀ i, i < cnt.toNat → bytes[i]? = some (s.buf.read (off.toNat + i))) ∧
      exec (.readbuf off cnt) s = .next { s with
        region := { s.region with op := 5#4 }
        loop := ⟨0, 0, 0, 0⟩
        result := .resOk
        out := s.out ++ [.response 0#8 bytes] }

/-- 60_exceptions R236: a READBUF with `offset + count > CAP` records `F_HOOK_RANGE`. -/
def Obligations.ReadbufOutsideTheBufferFaults : Prop :=
  ∀ (s : State) (off cnt : Word), s.ready → cap s.build < off.toNat + cnt.toNat →
    exec (.readbuf off cnt) s = .next { s with
      region := { s.region with op := 5#4 }
      loop := ⟨0, 0, 0, 0⟩
      fault := [.hookRange] }

/-! ### The validator -/

/-- 40_validator R121, R112: the valid regions are exactly the whole-page rectangles inside the surface; for BITMAP with the
data length of the region. -/
def Obligations.ValidRegionsArePageRectangles : Prop :=
  ∀ (b : Build) (op : BitVec 4) (x y w h : Int) (n : Nat), admitted b = true →
    (validate b op x y w h n = none ↔
      0 ≤ x ∧ 1 ≤ w ∧ x + w ≤ b.cols ∧
      (∃ p k : Nat, y = 8 * p ∧ h = 8 * k ∧ 1 ≤ k ∧ p + k ≤ b.pages ∧ (op = 2#4 → (n : Int) = k * w)))

/-- 40_validator R110-R113, R115: the first failing check, in the order row, column, length (BITMAP only), capacity, gives
the result. (That the capacity check never fails where it is reached is `CapacityCheckNeverFires`.) -/
def Obligations.FirstFailingCheckIsReported : Prop :=
  ∀ (b : Build) (op : BitVec 4) (x y w h : Int) (n : Nat),
    let row := 0 ≤ y ∧ 0 < h ∧ y + h ≤ (b.pages * 8 : Nat) ∧ y % 8 = 0 ∧ h % 8 = 0
    let col := 0 ≤ x ∧ 0 < w ∧ x + w ≤ b.cols
    let len := op = 2#4 → (n : Int) = h / 8 * w
    let capac := h / 8 * w ≤ (b.pages * b.cols : Nat)
    (¬ row → validate b op x y w h n = some .row) ∧
    (row → ¬ col → validate b op x y w h n = some .col) ∧
    (row → col → ¬ len → validate b op x y w h n = some .len) ∧
    (row → col → len → validate b op x y w h n = if capac then none else some .oversize)

/-- 40_validator R114: the capacity check never fails once the row and column checks pass, because `height div 8 ≤ PAGES` and
`width ≤ COLS`; the check is there (`FirstFailingCheckIsReported`) and never the one that fires. -/
def Obligations.CapacityCheckNeverFires : Prop :=
  ∀ (b : Build) (op : BitVec 4) (x y w h : Int) (n : Nat),
    (rowOk b y h = true → colOk b x w = true →
      h / 8 ≤ b.pages ∧ w ≤ b.cols ∧ h / 8 * w ≤ (b.pages * b.cols : Nat)) ∧
    validate b op x y w h n ≠ some .oversize

/-- 40_validator R117: a failed check emits its one diagnostic event and completes with its code; no other field changes. -/
def Obligations.FailedCheckOnlyReports : Prop :=
  ∀ (s : State) (e : GeomError), s.runs → s.port = none → s.state = .check → validateRegion s.build s.region = some e →
    step s = .next { s with
      state := .idle
      result := (match e with | .row => .errRow | .col => .errCol | .len => .errLen | .oversize => .errOversize)
      out := s.out ++
        [.diag (match e with | .row => .row | .col => .col | .len => .len | .oversize => .oversize)
          (.region s.region.rx.toInt s.region.ry.toInt s.region.rw.toInt s.region.rh.toInt s.region.dlen.toNat),
         .response (match e with | .row => 1#8 | .col => 2#8 | .len => 3#8 | .oversize => 4#8) []] }

/-- 40_validator R116: a passed check fixes `P0`, `P1`, `NB`, `COL_END` and moves to BUFWR; no other field changes. -/
def Obligations.PassedCheckFixesTheSpan : Prop :=
  ∀ s : State, s.runs → s.port = none → s.state = .check → validateRegion s.build s.region = none →
    ∃ p0 p1 nb colEnd : Nat,
      (p0 : Int) = s.region.ry.toInt / 8 ∧ (p1 : Int) = (s.region.ry.toInt + s.region.rh.toInt) / 8 - 1 ∧
      (nb : Int) = s.region.rh.toInt / 8 * s.region.rw.toInt ∧ (colEnd : Int) = s.region.rx.toInt + s.region.rw.toInt ∧
      step s = .next { s with
        state := .bufwr
        region := { s.region with p0 := p0, p1 := p1, nb := nb, colEnd := colEnd } }

/-! ### The buffer write -/

/-- 41_buffer_packing R138, 20_memory R58: `Addr` names no address twice and stays inside the buffer, under both layouts. -/
def Obligations.RegionAddressesAreDistinctAndInside : Prop :=
  ∀ (b : Build) (r : Region), admitted b = true → r.ok b →
    (∀ i, i < r.nb → addrLinear b r i < cap b ∧ addrStrided b r i < cap b) ∧
    (∀ i j, i < r.nb → j < r.nb → i ≠ j →
      addrLinear b r i ≠ addrLinear b r j ∧ addrStrided b r i ≠ addrStrided b r j)

/-- 41_buffer_packing R137: the layouts agree on a one-page or full-width region. -/
def Obligations.LayoutsAgreeOnOnePageOrFullWidth : Prop :=
  ∀ (b : Build) (r : Region), admitted b = true → r.ok b →
    (r.p0 = r.p1 ∨ (r.rx.toNat = 0 ∧ r.rw.toNat = b.cols)) →
    ∀ i, i < r.nb →
      addrStrided b r i = r.p0 * b.cols + r.rx.toNat + i ∧ addrLinear b r i = r.p0 * b.cols + r.rx.toNat + i

/-- 41_buffer_packing R133, R135: the buffer write puts every byte of the region at its address and no other byte changes;
then `RP` is B, `PG` is P0 and `STATE` PAGE. -/
def Obligations.BufferWritePlacesTheRegion : Prop :=
  ∀ s : State, s.Inv → s.fault = [] → s.port = none → s.state = .bufwr →
    (s.region.op = 2#4 → s.region.nb ≤ s.region.dataIn.length) →
    ∃ m : Memory,
      step s = .next { s with
        buf := m
        state := .page
        loop := { s.loop with rp := s.region.p0 * s.build.cols + s.region.rx.toNat, pg := s.region.p0 } } ∧
      (∀ i, i < s.region.nb →
        some (m.read (addr s.build s.region i)) =
          (if s.region.op = 2#4 then s.region.dataIn[i]? else some s.region.fill)) ∧
      (∀ a, (∀ i, i < s.region.nb → a ≠ addr s.build s.region i) → m.read a = s.buf.read a)

/-- 41_buffer_packing R133, 60_exceptions R233: a BITMAP that passed validation whose data list holds fewer than `DLEN` bytes
records `F_DATA_UNDERRUN`, before the first transfer; the bytes there were are written, every other byte and field stays. -/
def Obligations.ShortDataRecordsUnderrun : Prop :=
  ∀ s : State, s.Inv → s.fault = [] → s.port = none → s.state = .bufwr → s.region.op = 2#4 →
    s.region.dataIn.length < s.region.dlen.toNat →
    ∃ m : Memory,
      step s = .next { s with buf := m, fault := [.dataUnderrun] } ∧
      (∀ i, i < s.region.dataIn.length → s.region.dataIn[i]? = some (m.read (addr s.build s.region i))) ∧
      (∀ a, (∀ i, i < s.region.dataIn.length → a ≠ addr s.build s.region i) → m.read a = s.buf.read a)

/-- 41_buffer_packing R136, R141: CLEAR's buffer write makes every byte 0x00, whatever the buffer held. -/
def Obligations.ClearWriteZeroesTheBuffer : Prop :=
  ∀ s : State, s.Inv → s.fault = [] → s.port = none → s.state = .bufwr → s.region.op = 4#4 →
    s.region.rx = 0#32 → s.region.ry = 0#32 → s.region.rw.toNat = s.build.cols →
    s.region.rh.toNat = s.build.pages * 8 → s.region.fill = 0#8 →
    ∃ t, step s = .next t ∧ t.buf = [] ∧ ∀ a, t.buf.read a = 0x00#8

/-- 41_buffer_packing R139: a region whose bytes are in the buffer is read back byte for byte: under `Linear` by one READBUF of
its run, under `Strided` by one READBUF for each of its pages. -/
def Obligations.PlacedRegionReadsBack : Prop :=
  ∀ (s : State) (off cnt : Word), s.ready → s.region.ok s.build → s.placed →
    (s.build.layout = .linear →
      off.toNat = s.region.p0 * s.build.cols + s.region.rx.toNat → cnt.toNat = s.region.nb →
      ∃ t, exec (.readbuf off cnt) s = .next t ∧ t.out = s.out ++ [.response 0#8 (regionBytes s.region)]) ∧
    (s.build.layout = .strided → ∀ j, j < pageCount s.region →
      off.toNat = (s.region.p0 + j) * s.build.cols + s.region.rx.toNat → cnt = s.region.rw →
      ∃ t, exec (.readbuf off cnt) s = .next t ∧
        t.out = s.out ++
          [.response 0#8 (((regionBytes s.region).drop (j * s.region.rw.toNat)).take s.region.rw.toNat)])

/-- 41_buffer_packing R130, 20_memory R51-R52: byte i of a packed region is its page's and column's, and bit k of it the
pixel k rows below the top of the page band. -/
def Obligations.PackedBitsAreThePixels : Prop :=
  ∀ (pix : Nat → Nat → Bool) (x y w h : Nat),
    (pack pix x y w h).length = h / 8 * w ∧
    ∀ i, i < h / 8 * w → ∃ v, (pack pix x y w h)[i]? = some v ∧
      ∀ k, k < 8 → v.getLsbD k = pix (y + 8 * (i / w) + k) (x + i % w)

/-! ### The transfers -/

/-- 42_transfer_engine R150, R153, R165, R170: PAGE_SELECT in state PAGE sends `[0x80, PAGE_BASE | PG]` with `COL` and (under
Strided) `RP` set before it, and goes on to the column-select. -/
def Obligations.PageSelectSendsThePage : Prop :=
  ∀ s : State, s.runs → s.state = .page → s.loop.pg < 8 →
    exec (.pageSelect (s.build.pageBase.extractLsb' 3 5) (BitVec.ofNat 3 s.loop.pg)) s =
      .next (transferOutcome
        { s with loop := { s.loop with
            col := s.region.rx.toNat
            rp := if s.build.layout = .strided then s.loop.pg * s.build.cols + s.region.rx.toNat else s.loop.rp } }
        [0x80#8, s.build.pageBase ||| BitVec.ofNat 8 s.loop.pg] .page
        (fun t => { t with state := if t.build.framing = .separate then .colLo else .colBoth }))

/-- 42_transfer_engine R151, R165, R170: COL_LO in state COLLO sends `[0x80, COL_LO_BASE | COL[3:0]]`, then COLHI. -/
def Obligations.ColumnLowSendsTheLowBits : Prop :=
  ∀ s : State, s.runs → s.state = .colLo → s.loop.col < 128 →
    exec (.colLo (s.build.colLoBase.extractLsb' 4 4) (BitVec.ofNat 4 (s.loop.col % 16))) s =
      .next (transferOutcome s [0x80#8, s.build.colLoBase ||| BitVec.ofNat 8 (s.loop.col % 16)] .colLo
        (fun t => { t with state := .colHi }))

/-- 42_transfer_engine R151, R165, R170: COL_HI in state COLHI sends `[0x80, COL_HI_BASE | COL[6:4]]`, then DATA. -/
def Obligations.ColumnHighSendsTheHighBits : Prop :=
  ∀ s : State, s.runs → s.state = .colHi → s.loop.col < 128 →
    exec (.colHi (s.build.colHiBase.extractLsb' 3 5) (BitVec.ofNat 3 (s.loop.col / 16))) s =
      .next (transferOutcome s [0x80#8, s.build.colHiBase ||| BitVec.ofNat 8 (s.loop.col / 16)] .colHi
        (fun t => { t with state := .data }))

/-- 42_transfer_engine R151, R165, R170: COL_SELECT_COMBINED in state COLBOTH sends both command bytes, low first. -/
def Obligations.CombinedSelectSendsBothBytes : Prop :=
  ∀ s : State, s.runs → s.state = .colBoth → s.loop.col < 128 →
    exec (.colSelectCombined (s.build.colLoBase.extractLsb' 4 4) (BitVec.ofNat 4 (s.loop.col % 16))
        (s.build.colHiBase.extractLsb' 3 5) (BitVec.ofNat 3 (s.loop.col / 16))) s =
      .next (transferOutcome s
        [0x80#8, s.build.colLoBase ||| BitVec.ofNat 8 (s.loop.col % 16),
          s.build.colHiBase ||| BitVec.ofNat 8 (s.loop.col / 16)] .colBoth
        (fun t => { t with state := .data }))

/-- 42_transfer_engine R155-R159, R165, R170: DATA in state DATA sends the chunk `BUF[RP .. RP+CLEN-1]` under the data marker
with `CLEN = min(COL_END - COL, MAX_CHUNK)`, advances `COL` and `RP`, and goes to the next chunk, the next page or
completion. -/
def Obligations.DataSendsTheChunk : Prop :=
  ∀ (s : State) (bytes : List Byte), s.runs → s.state = .data →
    let n := min (s.region.colEnd - s.loop.col) s.build.maxChunk
    s.loop.rp + n ≤ cap s.build → bytes.length = n → (∀ i, i < n → bytes[i]? = some (s.buf.read (s.loop.rp + i))) →
    exec (.data bytes) s =
      .next (transferOutcome { s with loop := { s.loop with clen := n } } (0x40#8 :: bytes) .data (fun t =>
        let u := { t with loop := { t.loop with col := t.loop.col + n, rp := t.loop.rp + n } }
        if u.loop.col < u.region.colEnd then
          { u with state := if u.build.framing = .separate then .colLo else .colBoth }
        else if u.loop.pg < u.region.p1 then
          { u with state := .page, loop := { u.loop with pg := u.loop.pg + 1 } }
        else { u with state := .idle, result := .resOk, out := u.out ++ [.response 0#8 []] }))

/-- The model's choice (log entry 6): a wire transfer that is not the one due is refused by name; no step does it. -/
def Obligations.TransferOutOfTurnIsRefused : Prop :=
  (∀ (s : State) (i : Instr), s.runs → isRequest i = false → dueTransfer s ≠ some i →
    exec i s = .refused .outOfSequence) ∧
  ∀ s : State, step s ≠ .refused .outOfSequence

/-- 30_encoding R91: the column is recovered from its two command bytes, for every admitted build and every column. -/
def Obligations.ColumnIsRecoveredFromItsBytes : Prop :=
  ∀ (b : Build) (c : Nat), admitted b = true → c < b.cols → columnOfBytes (colLoCmd b c) (colHiCmd b c) = c

/-- 42_transfer_engine R167: under Continue a failed transfer changes no buffer byte and no register that a passed one would
not: two runs of an engine step that differ only in the answer differ only in `ST` and the outputs. -/
def Obligations.FailedTransferAdvancesAsPassed : Prop :=
  ∀ (s t u : State) (l : List XferStatus), s.port = none → s.state.engine → s.build.policy = .cont →
    step { s with answers := .pass :: l } = .next t → step { s with answers := .fail :: l } = .next u →
    u = { t with st := .fail, out := u.out }

/-- 42_transfer_engine R165, 60_exceptions R223: under Abort the first failed transfer ends the request: `ERR_XFER`, the
buffer kept, nothing sent after the transfer but its event and the response. -/
def Obligations.AbortEndsAtTheFirstFailure : Prop :=
  ∀ s t : State, s.port = none → s.state.engine → s.build.policy = .abort → s.nextAnswer = .fail → step s = .next t →
    t.state = .idle ∧ t.result = .errXfer ∧ t.buf = s.buf ∧ t.region = s.region ∧
    ∃ bytes, t.out = s.out ++
      [.transfer s.cfgDevAddr bytes bytes.length true true .fail,
       .diag .xfer (.transfer (positionOf s.state) s.loop.pg
         (if s.state = .page then s.region.rx.toNat else s.loop.col) bytes.length),
       .response 5#8 []]

/-! ### What no step does -/

/-- 42_transfer_engine R168, R171, 60_exceptions R227: what one step sends: nothing; a validation event and its response; a
response; or one transfer, followed at once by its one event if and only if it failed, then at most a response. -/
def Obligations.StepSendsOneTransferAndReportsFailure : Prop :=
  ∀ s t : State, step s = .next t →
    ∃ es, t.out = s.out ++ es ∧
      (es = [] ∨
       (∃ c bs, es = [.response c bs]) ∨
       (∃ k x y w h n c, es = [.diag k (.region x y w h n), .response c []] ∧ k ≠ .xfer ∧ c ≠ 0#8) ∨
       (∃ a bs n, es = [.transfer a bs n true true .pass] ∨ es = [.transfer a bs n true true .pass, .response 0#8 []]) ∨
       (∃ a bs n, ∃ rest,
          es = .transfer a bs n true true .fail ::
            .diag .xfer (.transfer (positionOf s.state) s.loop.pg (if s.state = .data then s.loop.col else t.loop.col) n) ::
              rest ∧
          (rest = [] ∨ rest = [.response 0#8 []] ∨ rest = [.response 5#8 []])))

/-- 20_memory R61, R63: every transfer is addressed to the device, carries its full length, starts with a marker, and has 2 to
`MAX_XFER` bytes. -/
def Obligations.TransfersFitTheTransport : Prop :=
  ∀ s t : State, s.Inv → step s = .next t → ∀ es, t.out = s.out ++ es →
    ∀ a bs n wait stop st, Event.transfer a bs n wait stop st ∈ es →
      a = s.cfgDevAddr ∧ n = bs.length ∧ wait = true ∧ stop = true ∧ 2 ≤ n ∧ n ≤ s.build.maxXfer ∧
      (bs.head? = some 0x80#8 ∨ bs.head? = some 0x40#8)

/-- 42_transfer_engine R174, 10_state R27, 20_memory R66: only the buffer write changes the buffer, and its step sends
nothing. -/
def Obligations.OnlyTheBufferWriteChangesTheBuffer : Prop :=
  ∀ s t : State, step s = .next t → t.buf ≠ s.buf → s.state = .bufwr ∧ s.port = none ∧ t.out = s.out

/-- 10_state R21-R22, 43_region_ops R197: the configuration is written by one CONFIGURE from a block not yet configured, and by
nothing else; the build never changes. -/
def Obligations.ConfigurationIsWrittenOnce : Prop :=
  ∀ s t : State, step s = .next t →
    t.build = s.build ∧
    (s.cfgValid = true → t.cfgValid = true ∧ t.cfgDevAddr = s.cfgDevAddr) ∧
    (s.cfgValid = false → (t.cfgValid = false ∧ t.cfgDevAddr = s.cfgDevAddr) ∨
      (t.cfgValid = true ∧ s.state = .idle ∧ ∃ r u, s.offered = some (r, u) ∧ decodeRequest r = .ok (.configure t.cfgDevAddr)))

/-- 10_state R28: `RESULT` is written exactly by the step that sends the response, which carries its code and returns the
sequencer to IDLE. -/
def Obligations.ResultIsWrittenWithTheResponse : Prop :=
  ∀ s t : State, step s = .next t →
    ((∃ es bs, t.out = s.out ++ es ++ [.response (resultValue t.result) bs] ∧ t.state = .idle) ∨
     (t.result = s.result ∧ ∀ c bs, Event.response c bs ∉ t.out.drop s.out.length))

/-- 10_state R31, 60_exceptions R230, R224: a step is taken only with `FAULT` empty, and records at most one fault, with which it
sends nothing. -/
def Obligations.StepRecordsAtMostOneFault : Prop :=
  ∀ s t : State, step s = .next t →
    s.fault = [] ∧ (t.fault = [] ∨ ∃ f, t.fault = [f] ∧ t.out = s.out ∧ t.result = s.result)

/-- The invariant is kept by every step, from every state that meets it. -/
def Obligations.EveryStepKeepsTheInvariant : Prop :=
  ∀ s t : State, s.Inv → step s = .next t → t.Inv

/-- 20_memory R58: from a state that meets the invariant no step leaves the buffer's addresses. -/
def Obligations.NoStepLeavesTheBuffer : Prop :=
  ∀ s : State, s.Inv → step s ≠ .fault .bufferRange

/-! ### Whole requests -/

/-- 42_transfer_engine R173: the sequencer's steps (R170) and the engine as one function (R169) end in the same state, with
the same outputs, after the transfers of R163, whatever the transport answers and under either policy. -/
def Obligations.SequencerRefinesTheEngineFunction : Prop :=
  ∀ s : State, s.Inv → s.fault = [] → s.quiet → s.state = .page → s.loop.pg = s.region.p0 →
    Host.Core.run core (transferCount s.build s.region) s = .next (engine s)

/-- 42_transfer_engine R159-R164: under Continue the engine sends, whatever the transport answers, exactly the transfers
`regionTransfers` writes out, and completes with `RES_OK`, the buffer unchanged. -/
def Obligations.EngineSendsExactlyTheRegionsTransfers : Prop :=
  ∀ s : State, s.Inv → s.fault = [] → s.quiet → s.state = .page → s.loop.pg = s.region.p0 → s.build.policy = .cont →
    ∃ t, Host.Core.run core (transferCount s.build s.region) s = .next t ∧
      t.state = .idle ∧ t.result = .resOk ∧ t.buf = s.buf ∧ t.fault = [] ∧
      transfersOf t.out = transfersOf s.out ++ regionTransfers s.build s.region

/-- 42_transfer_engine R172, 43_region_ops R191-R195: a region request that passes validation, its data supplied, has completed
`2 + n*(1 + t*(s+1))` steps after CHECK begins, its bytes in the buffer; under Continue not a step earlier, with `RES_OK` and
its transfers sent. -/
def Obligations.ValidRegionRequestRunsToItsEnd : Prop :=
  ∀ s : State, s.Inv → s.fault = [] → s.quiet → s.state = .check → validateRegion s.build s.region = none →
    (s.region.op = 2#4 → s.region.dlen.toNat ≤ s.region.dataIn.length) →
    let r := fixRegion s.region
    ∃ t, Host.Core.run core (2 + transferCount s.build r) s = .next t ∧
      t.ended ∧ t.region = r ∧ t.placed ∧
      (∀ a, (∀ i, i < r.nb → a ≠ addr s.build r i) → t.buf.read a = s.buf.read a) ∧
      (s.build.policy = .cont → t.result = .resOk ∧
        transfersOf t.out = transfersOf s.out ++ regionTransfers s.build r ∧
        ∀ k u, k < 2 + transferCount s.build r → Host.Core.run core k s = .next u → u.state ≠ .idle)

/-- 42_transfer_engine R160: the pixel bytes of a region's transfers, joined in order, are exactly the region's bytes. -/
def Obligations.PixelBytesSentAreTheRegionsBytes : Prop :=
  ∀ (b : Build) (r : Region), admitted b = true → r.ok b → (regionBytes r).length = r.nb →
    pixelBytes (regionTransfers b r) = regionBytes r

/-- 42_transfer_engine R161, R163: a page has `t = ceil(RW / MAX_CHUNK)` chunks, all but the last of `MAX_CHUNK` bytes, the
last of the rest, RW in all; the request has `n*(1 + t*(s+1))` transfers. -/
def Obligations.ChunkScheduleOfAPage : Prop :=
  ∀ (b : Build) (r : Region) (j : Nat), admitted b = true → r.ok b → (regionBytes r).length = r.nb → j < pageCount r →
    let t := chunksPerPage b r
    1 ≤ t ∧ t * b.maxChunk < r.rw.toNat + b.maxChunk ∧
    (∀ k, k + 1 < t → (chunkOf b r j k).length = b.maxChunk) ∧
    (chunkOf b r j (t - 1)).length = r.rw.toNat - (t - 1) * b.maxChunk ∧
    1 ≤ (chunkOf b r j (t - 1)).length ∧ (chunkOf b r j (t - 1)).length ≤ b.maxChunk ∧
    ((List.range t).map (fun k => (chunkOf b r j k).length)).sum = r.rw.toNat ∧
    (regionTransfers b r).length = transferCount b r

/-! ### Encodings -/

/-- 30_encoding R81-R86, R94: the encoding of every well-formed request decodes to it. -/
def Obligations.RequestsDecodeToThemselves : Prop :=
  ∀ (i : Instr) (r : Request), i.wellFormed = true → encode i = .request r → decodeRequest r = .ok i

/-- 30_encoding R82-R86: a request that decodes is the encoding of its instruction, which is well-formed: no bit of it is
dropped. -/
def Obligations.DecodedRequestsEncodeBack : Prop :=
  ∀ (r : Request) (i : Instr), decodeRequest r = .ok i → i.wellFormed = true ∧ encode i = .request r

/-- 30_encoding R88-R92, R95: for every admitted build, each transfer with the build's bases decodes, at its position, to
itself, whatever its page, column or data bytes, also where the bases overlap. -/
def Obligations.TransfersDecodeToThemselves : Prop :=
  ∀ b : Build, admitted b = true →
    (∀ p, decode b .page (encode (.pageSelect (pageField b) p)) = .ok (.pageSelect (pageField b) p)) ∧
    (∀ c, decode b .colLo (encode (.colLo (colLoField b) c)) = .ok (.colLo (colLoField b) c)) ∧
    (∀ c, decode b .colHi (encode (.colHi (colHiField b) c)) = .ok (.colHi (colHiField b) c)) ∧
    (∀ c d, decode b .colBoth (encode (.colSelectCombined (colLoField b) c (colHiField b) d)) =
      .ok (.colSelectCombined (colLoField b) c (colHiField b) d)) ∧
    (∀ bytes, bytes ≠ [] → decode b .data (encode (.data bytes)) = .ok (.data bytes))

/-- Words written out from the spec's encodings (95_test_vectors sections 2.4, 2.7 and 3) decode to their instructions. -/
def Obligations.WordsFromTheSpecDecode : Prop :=
  decodeRequest ⟨[0x00000001#32, 0x0000003C#32], []⟩ = .ok (.configure 0x3C#7) ∧
  decodeRequest ⟨[0x00000003#32, 0x0000000A#32, 0x00000008#32, 0x00000028#32, 0x00000010#32, 0x000000AA#32], []⟩ =
    .ok (.fill 10#32 8#32 40#32 16#32 0xAA#8) ∧
  decodeRequest ⟨[0x00000005#32, 0x000003FC#32, 0x00000004#32], []⟩ = .ok (.readbuf 1020#32 4#32) ∧
  decodeRequest ⟨[0x00000004#32], []⟩ = .ok .clear ∧
  decodeRequest ⟨[0x00000013#32], []⟩ = .ok (.reservedOp ⟨[0x00000013#32], []⟩) ∧
  decodeTransfer Config.exampleBuild .page [0x80#8, 0xB7#8] = .ok (.pageSelect 0b10110#5 7#3) ∧
  decodeTransfer Config.exampleBuild .colLo [0x80#8, 0x0C#8] = .ok (.colLo 0#4 12#4) ∧
  decodeTransfer Config.exampleBuild .colHi [0x80#8, 0x17#8] = .ok (.colHi 0b00010#5 7#3) ∧
  decodeTransfer Config.exampleBuild .data [0x40#8, 0x01#8, 0xFF#8] = .ok (.data [0x01#8, 0xFF#8])
end

