-- ==== Sys2Proof/Laws/State.lean ====
section
/-! SUPPORT. One lemma per field per named update of the state: what each update leaves and what it sets. -/
namespace Sys2Proof.Machine

variable (s : State)

@[simp] theorem State.emit_build (e : Event) : (s.emit e).build = s.build := rfl
@[simp] theorem State.emit_cfgValid (e : Event) : (s.emit e).cfgValid = s.cfgValid := rfl
@[simp] theorem State.emit_cfgDevAddr (e : Event) : (s.emit e).cfgDevAddr = s.cfgDevAddr := rfl
@[simp] theorem State.emit_state (e : Event) : (s.emit e).state = s.state := rfl
@[simp] theorem State.emit_region (e : Event) : (s.emit e).region = s.region := rfl
@[simp] theorem State.emit_loop (e : Event) : (s.emit e).loop = s.loop := rfl
@[simp] theorem State.emit_buf (e : Event) : (s.emit e).buf = s.buf := rfl
@[simp] theorem State.emit_result (e : Event) : (s.emit e).result = s.result := rfl
@[simp] theorem State.emit_st (e : Event) : (s.emit e).st = s.st := rfl
@[simp] theorem State.emit_fault (e : Event) : (s.emit e).fault = s.fault := rfl
@[simp] theorem State.emit_port (e : Event) : (s.emit e).port = s.port := rfl
@[simp] theorem State.emit_queue (e : Event) : (s.emit e).queue = s.queue := rfl
@[simp] theorem State.emit_answers (e : Event) : (s.emit e).answers = s.answers := rfl
@[simp] theorem State.emit_answered (e : Event) : (s.emit e).answered = s.answered := rfl
@[simp] theorem State.emit_out (e : Event) : (s.emit e).out = s.out ++ [e] := rfl

@[simp] theorem State.finish_build (r : ResultCode) (bytes : List Byte) : (s.finish r bytes).build = s.build := rfl
@[simp] theorem State.finish_cfgValid (r : ResultCode) (bytes : List Byte) : (s.finish r bytes).cfgValid = s.cfgValid := rfl
@[simp] theorem State.finish_cfgDevAddr (r : ResultCode) (bytes : List Byte) : (s.finish r bytes).cfgDevAddr = s.cfgDevAddr := rfl
@[simp] theorem State.finish_state (r : ResultCode) (bytes : List Byte) : (s.finish r bytes).state = .idle := rfl
@[simp] theorem State.finish_region (r : ResultCode) (bytes : List Byte) : (s.finish r bytes).region = s.region := rfl
@[simp] theorem State.finish_loop (r : ResultCode) (bytes : List Byte) : (s.finish r bytes).loop = s.loop := rfl
@[simp] theorem State.finish_buf (r : ResultCode) (bytes : List Byte) : (s.finish r bytes).buf = s.buf := rfl
@[simp] theorem State.finish_result (r : ResultCode) (bytes : List Byte) : (s.finish r bytes).result = r := rfl
@[simp] theorem State.finish_st (r : ResultCode) (bytes : List Byte) : (s.finish r bytes).st = s.st := rfl
@[simp] theorem State.finish_fault (r : ResultCode) (bytes : List Byte) : (s.finish r bytes).fault = s.fault := rfl
@[simp] theorem State.finish_port (r : ResultCode) (bytes : List Byte) : (s.finish r bytes).port = s.port := rfl
@[simp] theorem State.finish_queue (r : ResultCode) (bytes : List Byte) : (s.finish r bytes).queue = s.queue := rfl
@[simp] theorem State.finish_answers (r : ResultCode) (bytes : List Byte) : (s.finish r bytes).answers = s.answers := rfl
@[simp] theorem State.finish_answered (r : ResultCode) (bytes : List Byte) : (s.finish r bytes).answered = s.answered := rfl
@[simp] theorem State.finish_out (r : ResultCode) (bytes : List Byte) : (s.finish r bytes).out = s.out ++ [.response (resultValue r) bytes] := rfl

@[simp] theorem State.raise_build (f : ModelFault) : (s.raise f).build = s.build := rfl
@[simp] theorem State.raise_cfgValid (f : ModelFault) : (s.raise f).cfgValid = s.cfgValid := rfl
@[simp] theorem State.raise_cfgDevAddr (f : ModelFault) : (s.raise f).cfgDevAddr = s.cfgDevAddr := rfl
@[simp] theorem State.raise_state (f : ModelFault) : (s.raise f).state = s.state := rfl
@[simp] theorem State.raise_region (f : ModelFault) : (s.raise f).region = s.region := rfl
@[simp] theorem State.raise_loop (f : ModelFault) : (s.raise f).loop = s.loop := rfl
@[simp] theorem State.raise_buf (f : ModelFault) : (s.raise f).buf = s.buf := rfl
@[simp] theorem State.raise_result (f : ModelFault) : (s.raise f).result = s.result := rfl
@[simp] theorem State.raise_st (f : ModelFault) : (s.raise f).st = s.st := rfl
@[simp] theorem State.raise_fault (f : ModelFault) : (s.raise f).fault = withFault s.fault f := rfl
@[simp] theorem State.raise_port (f : ModelFault) : (s.raise f).port = s.port := rfl
@[simp] theorem State.raise_queue (f : ModelFault) : (s.raise f).queue = s.queue := rfl
@[simp] theorem State.raise_answers (f : ModelFault) : (s.raise f).answers = s.answers := rfl
@[simp] theorem State.raise_answered (f : ModelFault) : (s.raise f).answered = s.answered := rfl
@[simp] theorem State.raise_out (f : ModelFault) : (s.raise f).out = s.out := rfl

@[simp] theorem State.start_build (op : BitVec 4) : (s.start op).build = s.build := rfl
@[simp] theorem State.start_cfgValid (op : BitVec 4) : (s.start op).cfgValid = s.cfgValid := rfl
@[simp] theorem State.start_cfgDevAddr (op : BitVec 4) : (s.start op).cfgDevAddr = s.cfgDevAddr := rfl
@[simp] theorem State.start_state (op : BitVec 4) : (s.start op).state = s.state := rfl
@[simp] theorem State.start_region (op : BitVec 4) : (s.start op).region = { s.region with op := op } := rfl
@[simp] theorem State.start_loop (op : BitVec 4) : (s.start op).loop = Loop.zero := rfl
@[simp] theorem State.start_buf (op : BitVec 4) : (s.start op).buf = s.buf := rfl
@[simp] theorem State.start_result (op : BitVec 4) : (s.start op).result = s.result := rfl
@[simp] theorem State.start_st (op : BitVec 4) : (s.start op).st = s.st := rfl
@[simp] theorem State.start_fault (op : BitVec 4) : (s.start op).fault = s.fault := rfl
@[simp] theorem State.start_port (op : BitVec 4) : (s.start op).port = s.port := rfl
@[simp] theorem State.start_queue (op : BitVec 4) : (s.start op).queue = s.queue := rfl
@[simp] theorem State.start_answers (op : BitVec 4) : (s.start op).answers = s.answers := rfl
@[simp] theorem State.start_answered (op : BitVec 4) : (s.start op).answered = s.answered := rfl
@[simp] theorem State.start_out (op : BitVec 4) : (s.start op).out = s.out := rfl

@[simp] theorem State.setChunk_build : (s.setChunk).build = s.build := rfl
@[simp] theorem State.setChunk_cfgValid : (s.setChunk).cfgValid = s.cfgValid := rfl
@[simp] theorem State.setChunk_cfgDevAddr : (s.setChunk).cfgDevAddr = s.cfgDevAddr := rfl
@[simp] theorem State.setChunk_state : (s.setChunk).state = s.state := rfl
@[simp] theorem State.setChunk_region : (s.setChunk).region = s.region := rfl
@[simp] theorem State.setChunk_loop : (s.setChunk).loop = { s.loop with clen := chunkLen s.build s.region.colEnd s.loop.col } := rfl
@[simp] theorem State.setChunk_buf : (s.setChunk).buf = s.buf := rfl
@[simp] theorem State.setChunk_result : (s.setChunk).result = s.result := rfl
@[simp] theorem State.setChunk_st : (s.setChunk).st = s.st := rfl
@[simp] theorem State.setChunk_fault : (s.setChunk).fault = s.fault := rfl
@[simp] theorem State.setChunk_port : (s.setChunk).port = s.port := rfl
@[simp] theorem State.setChunk_queue : (s.setChunk).queue = s.queue := rfl
@[simp] theorem State.setChunk_answers : (s.setChunk).answers = s.answers := rfl
@[simp] theorem State.setChunk_answered : (s.setChunk).answered = s.answered := rfl
@[simp] theorem State.setChunk_out : (s.setChunk).out = s.out := rfl

@[simp] theorem State.advance_build : (s.advance).build = s.build := rfl
@[simp] theorem State.advance_cfgValid : (s.advance).cfgValid = s.cfgValid := rfl
@[simp] theorem State.advance_cfgDevAddr : (s.advance).cfgDevAddr = s.cfgDevAddr := rfl
@[simp] theorem State.advance_state : (s.advance).state = s.state := rfl
@[simp] theorem State.advance_region : (s.advance).region = s.region := rfl
@[simp] theorem State.advance_loop : (s.advance).loop = { s.loop with col := s.loop.col + s.loop.clen, rp := s.loop.rp + s.loop.clen } := rfl
@[simp] theorem State.advance_buf : (s.advance).buf = s.buf := rfl
@[simp] theorem State.advance_result : (s.advance).result = s.result := rfl
@[simp] theorem State.advance_st : (s.advance).st = s.st := rfl
@[simp] theorem State.advance_fault : (s.advance).fault = s.fault := rfl
@[simp] theorem State.advance_port : (s.advance).port = s.port := rfl
@[simp] theorem State.advance_queue : (s.advance).queue = s.queue := rfl
@[simp] theorem State.advance_answers : (s.advance).answers = s.answers := rfl
@[simp] theorem State.advance_answered : (s.advance).answered = s.answered := rfl
@[simp] theorem State.advance_out : (s.advance).out = s.out := rfl

@[simp] theorem State.startPage_build : s.startPage.build = s.build := rfl
@[simp] theorem State.startPage_cfgValid : s.startPage.cfgValid = s.cfgValid := rfl
@[simp] theorem State.startPage_cfgDevAddr : s.startPage.cfgDevAddr = s.cfgDevAddr := rfl
@[simp] theorem State.startPage_state : s.startPage.state = s.state := rfl
@[simp] theorem State.startPage_region : s.startPage.region = s.region := rfl
@[simp] theorem State.startPage_buf : s.startPage.buf = s.buf := rfl
@[simp] theorem State.startPage_result : s.startPage.result = s.result := rfl
@[simp] theorem State.startPage_st : s.startPage.st = s.st := rfl
@[simp] theorem State.startPage_fault : s.startPage.fault = s.fault := rfl
@[simp] theorem State.startPage_port : s.startPage.port = s.port := rfl
@[simp] theorem State.startPage_queue : s.startPage.queue = s.queue := rfl
@[simp] theorem State.startPage_answers : s.startPage.answers = s.answers := rfl
@[simp] theorem State.startPage_answered : s.startPage.answered = s.answered := rfl
@[simp] theorem State.startPage_out : s.startPage.out = s.out := rfl
@[simp] theorem State.startPage_pg : s.startPage.loop.pg = s.loop.pg := rfl
@[simp] theorem State.startPage_col : s.startPage.loop.col = s.region.rx.toNat := rfl
@[simp] theorem State.startPage_clen : s.startPage.loop.clen = s.loop.clen := rfl

theorem State.startPage_rp_linear (h : s.build.layout = .linear) : s.startPage.loop.rp = s.loop.rp := by
  simp [State.startPage, h]

theorem State.startPage_rp_strided (h : s.build.layout = .strided) :
    s.startPage.loop.rp = s.loop.pg * s.build.cols + s.region.rx.toNat := by
  simp [State.startPage, h]

@[simp] theorem State.takeAnswer_build : s.takeAnswer.build = s.build := by
  unfold State.takeAnswer; cases s.answers <;> rfl
@[simp] theorem State.takeAnswer_cfgValid : s.takeAnswer.cfgValid = s.cfgValid := by
  unfold State.takeAnswer; cases s.answers <;> rfl
@[simp] theorem State.takeAnswer_cfgDevAddr : s.takeAnswer.cfgDevAddr = s.cfgDevAddr := by
  unfold State.takeAnswer; cases s.answers <;> rfl
@[simp] theorem State.takeAnswer_state : s.takeAnswer.state = s.state := by
  unfold State.takeAnswer; cases s.answers <;> rfl
@[simp] theorem State.takeAnswer_region : s.takeAnswer.region = s.region := by
  unfold State.takeAnswer; cases s.answers <;> rfl
@[simp] theorem State.takeAnswer_loop : s.takeAnswer.loop = s.loop := by
  unfold State.takeAnswer; cases s.answers <;> rfl
@[simp] theorem State.takeAnswer_buf : s.takeAnswer.buf = s.buf := by
  unfold State.takeAnswer; cases s.answers <;> rfl
@[simp] theorem State.takeAnswer_result : s.takeAnswer.result = s.result := by
  unfold State.takeAnswer; cases s.answers <;> rfl
@[simp] theorem State.takeAnswer_st : s.takeAnswer.st = s.st := by
  unfold State.takeAnswer; cases s.answers <;> rfl
@[simp] theorem State.takeAnswer_fault : s.takeAnswer.fault = s.fault := by
  unfold State.takeAnswer; cases s.answers <;> rfl
@[simp] theorem State.takeAnswer_port : s.takeAnswer.port = s.port := by
  unfold State.takeAnswer; cases s.answers <;> rfl
@[simp] theorem State.takeAnswer_queue : s.takeAnswer.queue = s.queue := by
  unfold State.takeAnswer; cases s.answers <;> rfl
@[simp] theorem State.takeAnswer_out : s.takeAnswer.out = s.out := by
  unfold State.takeAnswer; cases s.answers <;> rfl

@[simp] theorem State.xfer_build (bytes : List Byte) : (s.xfer bytes).build = s.build := s.takeAnswer_build
@[simp] theorem State.xfer_cfgValid (bytes : List Byte) : (s.xfer bytes).cfgValid = s.cfgValid := s.takeAnswer_cfgValid
@[simp] theorem State.xfer_cfgDevAddr (bytes : List Byte) : (s.xfer bytes).cfgDevAddr = s.cfgDevAddr := s.takeAnswer_cfgDevAddr
@[simp] theorem State.xfer_state (bytes : List Byte) : (s.xfer bytes).state = s.state := s.takeAnswer_state
@[simp] theorem State.xfer_region (bytes : List Byte) : (s.xfer bytes).region = s.region := s.takeAnswer_region
@[simp] theorem State.xfer_loop (bytes : List Byte) : (s.xfer bytes).loop = s.loop := s.takeAnswer_loop
@[simp] theorem State.xfer_buf (bytes : List Byte) : (s.xfer bytes).buf = s.buf := s.takeAnswer_buf
@[simp] theorem State.xfer_result (bytes : List Byte) : (s.xfer bytes).result = s.result := s.takeAnswer_result
@[simp] theorem State.xfer_st (bytes : List Byte) : (s.xfer bytes).st = s.nextAnswer := rfl
@[simp] theorem State.xfer_fault (bytes : List Byte) : (s.xfer bytes).fault = s.fault := s.takeAnswer_fault
@[simp] theorem State.xfer_port (bytes : List Byte) : (s.xfer bytes).port = s.port := s.takeAnswer_port
@[simp] theorem State.xfer_queue (bytes : List Byte) : (s.xfer bytes).queue = s.queue := s.takeAnswer_queue
@[simp] theorem State.xfer_answers (bytes : List Byte) : (s.xfer bytes).answers = s.takeAnswer.answers := rfl
@[simp] theorem State.xfer_answered (bytes : List Byte) : (s.xfer bytes).answered = s.takeAnswer.answered := rfl
@[simp] theorem State.xfer_out (bytes : List Byte) :
    (s.xfer bytes).out = s.out ++ [s.transferEvent bytes s.nextAnswer] := rfl

theorem State.takeAnswer_of_cons {a : XferStatus} {l : List XferStatus} (h : s.answers = a :: l) :
    s.nextAnswer = a ∧ s.takeAnswer.answers = l ∧ s.takeAnswer.answered = s.answered := by
  simp [State.nextAnswer, State.takeAnswer, h]

theorem State.takeAnswer_of_nil (h : s.answers = []) :
    s.nextAnswer = Config.transportAnswer s.answered ∧ s.takeAnswer.answers = [] ∧
      s.takeAnswer.answered = s.answered + 1 := by
  simp [State.nextAnswer, State.takeAnswer, h]

end Sys2Proof.Machine
end

