-- ==== Sys2Proof/Laws/Memory.lean ====
section
/-! SUPPORT. The buffer: a read after a write, the canonical form kept, and what placing a list of bytes does. -/
namespace Sys2Proof.Machine

@[simp] theorem Memory.read_nil (a : Nat) : Memory.read [] a = 0#8 := rfl

theorem Memory.read_of_wfFrom {top lo a : Nat} {m : Memory} (h : Memory.wfFrom top lo m = true) (ha : a < lo) :
    m.read a = 0#8 := by
  induction m generalizing lo with
  | nil => rfl
  | cons c m ih =>
    obtain ⟨k, v⟩ := c
    simp only [Memory.wfFrom, Bool.and_eq_true, decide_eq_true_eq] at h
    obtain ⟨⟨⟨hlo, -⟩, -⟩, hm⟩ := h
    have hk : k ≠ a := by omega
    simpa [Memory.read, hk] using ih hm (by omega)

theorem Memory.wfFrom_mono {top lo lo' : Nat} {m : Memory} (h : Memory.wfFrom top lo m = true) (hle : lo' ≤ lo) :
    Memory.wfFrom top lo' m = true := by
  cases m with
  | nil => rfl
  | cons c m =>
    simp only [Memory.wfFrom, Bool.and_eq_true, decide_eq_true_eq] at h ⊢
    exact ⟨⟨⟨by omega, h.1.1.2⟩, h.1.2⟩, h.2⟩

/-- A byte written and read back. -/
theorem Memory.read_write {top : Nat} {m : Memory} (h : m.wf top = true) (a b : Nat) (v : Byte) :
    (m.write a v).read b = if b = a then v else m.read b := by
  have key : ∀ lo, Memory.wfFrom top lo m = true → (m.write a v).read b = if b = a then v else m.read b := by
    induction m with
    | nil =>
      intro _ _
      by_cases hb : b = a
      · subst hb; by_cases hv : v = 0#8 <;> simp [Memory.write, Memory.read, hv]
      · by_cases hv : v = 0#8 <;> simp [Memory.write, Memory.read, hv, hb, show ¬ a = b from fun h => hb h.symm]
    | cons c m ih =>
      intro lo hlo
      obtain ⟨k, w⟩ := c
      have hlo' := hlo
      simp only [Memory.wfFrom, Bool.and_eq_true, decide_eq_true_eq] at hlo
      obtain ⟨-, hm⟩ := hlo
      by_cases hak : a < k
      · have hza : ∀ x, x < k → Memory.read ((k, w) :: m) x = 0#8 := fun x hx => by
          have := Memory.read_of_wfFrom hm (a := x) (by omega)
          simp [Memory.read, show k ≠ x by omega, this]
        by_cases hv : v = 0#8
        · by_cases hb : b = a
          · simp [Memory.write, hak, hv, hb, hza a hak]
          · simp [Memory.write, hak, hv, hb]
        · by_cases hb : b = a
          · simp [Memory.write, hak, hv, hb, Memory.read]
          · simp [Memory.write, hak, hv, hb, Memory.read, show ¬ a = b from fun h => hb h.symm]
      · by_cases hek : a = k
        · subst hek
          by_cases hv : v = 0#8
          · by_cases hb : b = a
            · subst hb; simp [Memory.write, hv, Memory.read_of_wfFrom hm (a := b) (by omega)]
            · simp [Memory.write, hv, hb, Memory.read, show ¬ a = b from fun h => hb h.symm]
          · by_cases hb : b = a
            · simp [Memory.write, hv, hb, Memory.read]
            · simp [Memory.write, hv, hb, Memory.read, show ¬ a = b from fun h => hb h.symm]
        · have hrec := ih (by simpa [Memory.wf] using Memory.wfFrom_mono hm (Nat.zero_le _)) (k + 1) hm
          by_cases hkb : k = b
          · subst hkb; simp [Memory.write, hak, hek, Memory.read, show ¬ k = a from fun h => hek h.symm]
          · simp [Memory.write, hak, hek, Memory.read, hkb, hrec]
  exact key 0 h

/-- Every write keeps the canonical form. -/
theorem Memory.write_wf {top a : Nat} {m : Memory} (h : m.wf top = true) (ha : a < top) (v : Byte) :
    (m.write a v).wf top = true := by
  have key : ∀ lo, lo ≤ a → Memory.wfFrom top lo m = true → Memory.wfFrom top lo (m.write a v) = true := by
    clear h
    induction m with
    | nil => intro lo hlo _; by_cases hv : v = 0#8 <;> simp [Memory.write, Memory.wfFrom, hv, hlo, ha]
    | cons c m ih =>
      intro lo hlo hm
      obtain ⟨k, w⟩ := c
      simp only [Memory.wfFrom, Bool.and_eq_true, decide_eq_true_eq] at hm
      obtain ⟨⟨⟨h1, h2⟩, h3⟩, h4⟩ := hm
      by_cases hak : a < k
      · by_cases hv : v = 0#8
        · simp only [Memory.write, hak, hv, if_true]; simp_all [Memory.wfFrom]
        · simp only [Memory.write, hak, hv, if_true, if_false]
          simp_all [Memory.wfFrom]
      · by_cases hek : a = k
        · subst hek
          by_cases hv : v = 0#8
          · simp only [Memory.write, hv, lt_irrefl, if_true, if_false]
            exact Memory.wfFrom_mono h4 (by omega)
          · simp [Memory.write, hv, Memory.wfFrom, h1, h2, h4]
        · simp only [Memory.write, hak, hek, if_false, Memory.wfFrom, Bool.and_eq_true, decide_eq_true_eq]
          exact ⟨⟨⟨h1, h2⟩, h3⟩, ih (k + 1) (by omega) h4⟩
  exact key 0 (Nat.zero_le _) h

/-- The buffer at reset is canonical. -/
theorem Memory.reset_wf (top : Nat) : Memory.wf top [] = true := rfl

/-- What `placeBytes` does when it answers: the canonical form is kept, a byte outside the addresses written reads as before,
and, where `Addr` names no address twice, each address holds its byte. -/
theorem placeBytes_spec {b : Build} {r : Region} {vs : List Byte} {i : Nat} {m m' : Memory}
    (h : placeBytes b r vs i m = some m') (hm : m.wf (cap b) = true) :
    m'.wf (cap b) = true ∧
    (∀ a, (∀ j, j < vs.length → a ≠ addr b r (i + j)) → m'.read a = m.read a) ∧
    ((∀ j k, j < k → k < i + vs.length → addr b r j ≠ addr b r k) →
      ∀ j, j < vs.length → vs[j]? = some (m'.read (addr b r (i + j)))) := by
  induction vs generalizing i m with
  | nil => simp only [placeBytes, Option.some.injEq] at h; subst h; simp [hm]
  | cons v vs ih =>
    simp only [placeBytes] at h
    split at h
    · next hlt =>
      have hw := Memory.write_wf hm hlt v
      obtain ⟨h1, h2, h3⟩ := ih h hw
      refine ⟨h1, fun a ha => ?_, fun inj j hj => ?_⟩
      · rw [h2 a fun j hj => ?_, Memory.read_write hm, if_neg]
        · simpa using ha 0 (by simp)
        · have := ha (j + 1) (by simp; omega)
          rwa [show i + (j + 1) = i + 1 + j by omega] at this
      · cases j with
        | zero =>
          rw [Nat.add_zero, h2 (addr b r i) fun j hj => ?_, Memory.read_write hm, if_pos rfl]
          · rfl
          · exact inj i (i + 1 + j) (by omega) (by simp; omega)
        | succ j =>
          have := h3 (fun j k hjk hk => inj j k hjk (by simp; omega)) j (by simpa using hj)
          rw [show i + (j + 1) = i + 1 + j by omega]
          simpa using this
    · cases h

/-- `placeBytes` answers exactly when every address is inside the buffer. -/
theorem placeBytes_isSome_iff (b : Build) (r : Region) (vs : List Byte) (i : Nat) (m : Memory) :
    (placeBytes b r vs i m).isSome = true ↔ ∀ j, j < vs.length → addr b r (i + j) < cap b := by
  induction vs generalizing i m with
  | nil => simp [placeBytes]
  | cons v vs ih =>
    simp only [placeBytes]
    split
    · next hlt =>
      rw [ih]
      constructor
      · intro h j hj
        cases j with
        | zero => exact hlt
        | succ j => have := h j (by simpa using hj); rwa [show i + (j + 1) = i + 1 + j by omega]
      · intro h j hj
        have := h (j + 1) (by simpa using hj)
        rwa [show i + (j + 1) = i + 1 + j by omega] at this
    · next hlt =>
      simp only [Option.isSome_none, Bool.false_eq_true, false_iff, not_forall]
      exact ⟨0, by simp, hlt⟩

/-- What `memRead` answers. -/
theorem State.memRead_eq_some {s : State} {a n : Nat} {l : List Byte} :
    s.memRead a n = some l ↔ a + n ≤ cap s.build ∧ l = (List.range n).map (fun i => s.buf.read (a + i)) := by
  unfold State.memRead
  split <;> simp_all [eq_comm]

end Sys2Proof.Machine
end

