-- ==== Sys2Proof/Laws/Ops.lean ====
section
/-! SUPPORT. One lemma per shared operation that says everything it can do, and the inversion of a step. -/
namespace Sys2Proof.Machine

variable {s t u : State} {k : Result}

/-! ### Taking a step at all -/

theorem live_of_runs (h : s.runs) (k : Result) : live s k = k := by simp [live, h.1, h.2]

/-- `live` answers a next state exactly when the block runs and what it guards does. -/
theorem live_eq_next : live s k = .next t ↔ s.runs ∧ k = .next t := by
  unfold live; split <;> [split; skip] <;> simp_all [State.runs]

theorem live_stopped (hb : admitted s.build = true) (hf : s.fault ≠ []) (k : Result) :
    live s k = .fault (.stopped s.fault) := by simp [live, hb, hf]

theorem live_refused (hb : admitted s.build = false) (k : Result) : live s k = .refused .buildRefused := by
  simp [live, hb]

/-! ### Acceptance -/

theorem State.busy_iff : s.busy = true ↔ s.state ≠ .idle := by simp [State.busy]

theorem accept_of_ready (h : s.ready) (k : Result) : accept s k = k := by
  simp [accept, live, State.busy, h.1, h.2.1, h.2.2]

theorem accept_of_busy (h : s.runs) (hb : s.state ≠ .idle) (k : Result) : accept s k = .next (s.raise .busy) := by
  simp [accept, live, State.busy, h.1, h.2, hb]

/-- `accept` answers a next state by recording `F_BUSY`, or through what it guards. -/
theorem accept_eq_next : accept s k = .next t ↔
    s.runs ∧ ((s.state ≠ .idle ∧ t = s.raise .busy) ∨ (s.state = .idle ∧ k = .next t)) := by
  unfold accept; rw [live_eq_next]
  by_cases h : s.state = .idle
  · simp [State.busy, h]
  · have hb : s.busy = true := State.busy_iff.mpr h
    simp [hb, h, eq_comm (a := t)]

/-- `acceptRegion` answers a next state by recording `F_BUSY` or `F_NOT_CONFIGURED`, or by loading and going to CHECK. -/
theorem acceptRegion_eq_next {r : Region} : acceptRegion s r = .next t ↔
    s.runs ∧ ((s.state ≠ .idle ∧ t = s.raise .busy) ∨
      (s.state = .idle ∧ s.cfgValid = false ∧ t = s.raise .notConfigured) ∨
      (s.state = .idle ∧ s.cfgValid = true ∧ t = { s with loop := Loop.zero, region := r, state := .check })) := by
  unfold acceptRegion; rw [accept_eq_next]
  by_cases h : s.cfgValid = true <;> simp [h, eq_comm]

theorem acceptMalformed_eq_next : acceptMalformed s = .next t ↔
    s.runs ∧ s.state ≠ .idle ∧ t = s.raise .busy := by
  unfold acceptMalformed; rw [accept_eq_next]; simp

/-! ### Transfers -/

/-- A transfer, its answer and the failure policy: the three things `send` can do (42_transfer_engine R165). -/
theorem send_cases (s : State) (bytes : List Byte) (kind : XKind) (k : State → State) :
    (s.nextAnswer = .pass ∧ send s bytes kind k = k (s.xfer bytes)) ∨
    (s.nextAnswer = .fail ∧ s.build.policy = .cont ∧
      send s bytes kind k = k ((s.xfer bytes).emit (s.xferDiag kind bytes.length))) ∨
    (s.nextAnswer = .fail ∧ s.build.policy = .abort ∧
      send s bytes kind k = ((s.xfer bytes).emit (s.xferDiag kind bytes.length)).finish .errXfer []) := by
  have hd : (s.xfer bytes).xferDiag kind bytes.length = s.xferDiag kind bytes.length := by
    simp [State.xferDiag]
  cases ha : s.nextAnswer <;> cases hp : s.build.policy <;> simp [send, afterXfer, ha, hp, hd]

theorem issue_of_due (h : s.runs) {i : Instr} (hd : dueTransfer s = some i) (t : State) : issue s i t = .next t := by
  simp [issue, live, h.1, h.2, hd]

/-- `issue` answers a next state exactly when the block runs and the transfer is the one that is due. -/
theorem issue_eq_next {i : Instr} : issue s i u = .next t ↔ s.runs ∧ dueTransfer s = some i ∧ t = u := by
  unfold issue; rw [live_eq_next]
  by_cases h : dueTransfer s = some i <;> simp [h, eq_comm]

/-! ### The sequencer's own steps -/

theorem stepIdle_eq_next : stepIdle s = .next t ↔ s.runs ∧ t = s := by
  unfold stepIdle; rw [live_eq_next]; simp [eq_comm]

theorem stepCheck_eq_next : stepCheck s = .next t ↔ s.runs ∧ t = s.checked := by
  unfold stepCheck; rw [live_eq_next]; simp [eq_comm]

/-- CHECK fixes the derived registers or completes with the first failing check. -/
theorem checked_cases (s : State) :
    (validateRegion s.build s.region = none ∧
      s.checked = { s with region := fixRegion s.region, state := .bufwr }) ∨
    (∃ e, validateRegion s.build s.region = some e ∧
      s.checked = (s.emit (geomEvent e s.region)).finish (geomResult e) []) := by
  unfold State.checked; cases validateRegion s.build s.region <;> simp

/-- BUFWR places the bytes and goes to PAGE, or records `F_DATA_UNDERRUN`. -/
theorem stepBufwr_eq_next : stepBufwr s = .next t ↔ s.runs ∧
    ∃ m, placeBytes s.build s.region (regionBytes s.region) 0 s.buf = some m ∧
      (((regionBytes s.region).length < s.region.nb ∧ t = { s with buf := m }.raise .dataUnderrun) ∨
       (s.region.nb ≤ (regionBytes s.region).length ∧ t = { s with
          buf := m
          loop := { s.loop with rp := baseAddr s.build s.region, pg := s.region.p0 }
          state := .page })) := by
  unfold stepBufwr; rw [live_eq_next]
  cases placeBytes s.build s.region (regionBytes s.region) 0 s.buf with
  | none => simp
  | some m =>
    by_cases h : (regionBytes s.region).length < s.region.nb
    · simp [h, eq_comm, Nat.not_le.mpr h]
    · simp [h, eq_comm, Nat.not_lt.mp h]

/-! ### The inversion of a step -/

/-- Where `offered` takes a request from: nothing but the port or the line changes. -/
theorem offered_cases {r : Request} (h : s.offered = some (r, u)) :
    (s.port = some r ∧ u = { s with port := none }) ∨
    (s.port = none ∧ s.state = .idle ∧ s.queue = r :: u.queue ∧ u = { s with queue := u.queue }) := by
  unfold State.offered at h
  split at h
  · next hp => simp only [Option.some.injEq, Prod.mk.injEq] at h; obtain ⟨rfl, rfl⟩ := h; exact .inl ⟨hp, rfl⟩
  · next hp =>
    split at h
    · cases h
    · next hq =>
      split at h
      · next hi =>
        simp only [Option.some.injEq, Prod.mk.injEq] at h; obtain ⟨rfl, rfl⟩ := h; exact .inr ⟨hp, hi, hq, rfl⟩
      · cases h

theorem offered_quiet (h : s.quiet) : s.offered = none := by simp [State.offered, h.1, h.2]

theorem offered_port_none (h : s.port = none) (hs : s.state ≠ .idle) : s.offered = none := by
  unfold State.offered; rw [h]; cases s.queue <;> simp [hs]

/-- Everything a step that answers a next state can be. -/
theorem step_cases (h : step s = .next t) :
    (∃ r u i, s.offered = some (r, u) ∧ decodeRequest r = .ok i ∧ exec i u = .next t) ∨
    (∃ r u, s.offered = some (r, u) ∧ u.runs ∧ u.state ≠ .idle ∧ t = u.raise .busy) ∨
    (s.offered = none ∧ s.state = .idle ∧ s.runs ∧ t = s) ∨
    (s.offered = none ∧ s.state = .check ∧ s.runs ∧ t = s.checked) ∨
    (s.offered = none ∧ s.state = .bufwr ∧ stepBufwr s = .next t) ∨
    (s.offered = none ∧ s.state.engine ∧ ∃ i, dueTransfer s = some i ∧ exec i s = .next t) := by
  unfold step cycle at h
  split at h
  · next r u ho =>
    unfold present at h
    split at h
    · next i hi => exact .inl ⟨r, u, i, ho, hi, h⟩
    · rw [acceptMalformed_eq_next] at h; exact .inr (.inl ⟨r, u, ho, h.1, h.2.1, h.2.2⟩)
  · next ho =>
    unfold sequencerStep at h
    split at h
    · next hs => rw [stepIdle_eq_next] at h; exact .inr (.inr (.inl ⟨ho, hs, h⟩))
    · next hs => rw [stepCheck_eq_next] at h; exact .inr (.inr (.inr (.inl ⟨ho, hs, h⟩)))
    · next hs => exact .inr (.inr (.inr (.inr (.inl ⟨ho, hs, h⟩))))
    all_goals
      next hs =>
        split at h
        · next i hi => exact .inr (.inr (.inr (.inr (.inr ⟨ho, by simp [hs, SeqState.engine], i, hi, h⟩))))
        · rw [live_eq_next] at h; cases h.2

/-- Everything a request that answers a next state can do, from the state it is presented in. -/
theorem decodeRequest_isRequest {r : Request} {i : Instr} (h : decodeRequest r = .ok i) :
    ∃ q, encode i = .request q := by
  have key : ∀ op rest, decodeOperands r op rest = .ok i → ∃ q, encode i = .request q := by
    intro op rest h
    unfold decodeOperands at h
    repeat' split at h
    all_goals first
      | (simp only [Except.ok.injEq] at h; subst h; exact ⟨_, rfl⟩)
      | (simp at h)
  unfold decodeRequest at h
  repeat' split at h
  all_goals first
    | exact key _ _ h
    | (simp only [Except.ok.injEq] at h; subst h; exact ⟨_, rfl⟩)
    | (simp at h)

/-- The state that follows an accepted request: what each one leaves. -/
theorem exec_request_cases {i : Instr} {q : Request} (hq : encode i = .request q) (h : exec i u = .next t) :
    u.runs ∧
    ((u.state ≠ .idle ∧ t = u.raise .busy) ∨
     (u.state = .idle ∧
      ((∃ f, t = u.raise f ∧ (f = .illegalReq ∨ f = .notConfigured)) ∨
       (∃ a, i = .configure a ∧ u.cfgValid = true ∧ t = (u.start opConfigure).raise .reconfigure) ∨
       (∃ a, i = .configure a ∧ u.cfgValid = false ∧
          t = ({ u.start opConfigure with cfgDevAddr := a, cfgValid := true }).finish .resOk []) ∨
       (t = (u.start opReadbuf).raise .hookRange) ∨
       (∃ bytes, t = (u.start opReadbuf).finish .resOk bytes) ∨
       (∃ r : Region, r.opOk ∧ u.cfgValid = true ∧ t = { u with loop := Loop.zero, region := r, state := .check })))) := by
  cases i with
  | configure a =>
    simp only [exec, execConfigure, accept_eq_next] at h
    refine ⟨h.1, h.2.imp id fun hh => ⟨hh.1, ?_⟩⟩
    have h2 := hh.2
    split at h2
    · next hc => exact .inr (.inl ⟨a, rfl, hc, by simpa [eq_comm] using h2⟩)
    · next hc => exact .inr (.inr (.inl ⟨a, rfl, by simpa using hc, by simpa [eq_comm] using h2⟩))
  | bitmap x y w hh n d =>
    simp only [exec, execBitmap, acceptRegion_eq_next] at h
    refine ⟨h.1, h.2.imp id ?_⟩
    rintro (⟨h1, -, h3⟩ | ⟨h1, h2, h3⟩)
    · exact ⟨h1, .inl ⟨_, h3, .inr rfl⟩⟩
    · exact ⟨h1, .inr (.inr (.inr (.inr (.inr ⟨_, .inl rfl, h2, h3⟩))))⟩
  | fill x y w hh v =>
    simp only [exec, execFill, acceptRegion_eq_next] at h
    refine ⟨h.1, h.2.imp id ?_⟩
    rintro (⟨h1, -, h3⟩ | ⟨h1, h2, h3⟩)
    · exact ⟨h1, .inl ⟨_, h3, .inr rfl⟩⟩
    · exact ⟨h1, .inr (.inr (.inr (.inr (.inr ⟨_, .inr (.inl rfl), h2, h3⟩))))⟩
  | clear =>
    simp only [exec, execClear, acceptRegion_eq_next] at h
    refine ⟨h.1, h.2.imp id ?_⟩
    rintro (⟨h1, -, h3⟩ | ⟨h1, h2, h3⟩)
    · exact ⟨h1, .inl ⟨_, h3, .inr rfl⟩⟩
    · exact ⟨h1, .inr (.inr (.inr (.inr (.inr ⟨_, .inr (.inr rfl), h2, h3⟩))))⟩
  | readbuf o n =>
    simp only [exec, execReadbuf, accept_eq_next] at h
    refine ⟨h.1, h.2.imp id fun hh => ⟨hh.1, ?_⟩⟩
    have h2 := hh.2
    split at h2
    · exact .inr (.inr (.inr (.inl (by simpa [eq_comm] using h2))))
    · exact .inr (.inr (.inr (.inr (.inl ⟨_, by simpa [eq_comm] using h2⟩))))
  | reservedOp r =>
    simp only [exec, execReservedOp, accept_eq_next] at h
    refine ⟨h.1, h.2.imp id fun hh => ⟨hh.1, .inl ⟨_, by simpa [eq_comm] using hh.2, .inl rfl⟩⟩⟩
  | _ => simp [encode] at hq

/-- Everything a wire transfer that answers a next state can do: it is the one that is due, sent from its own state. -/
theorem exec_transfer_cases {i : Instr} {bs : List Byte} (hq : encode i = .transfer bs) (h : exec i s = .next t) :
    s.runs ∧ dueTransfer s = some i ∧
    ((s.state = .page ∧ t = send s.startPage bs .page (fun u => { u with state := colSelectState u.build })) ∨
     (s.state = .colLo ∧ t = send s bs .colLo (fun u => { u with state := .colHi })) ∨
     (s.state = .colHi ∧ t = send s bs .colHi (fun u => { u with state := .data })) ∨
     (s.state = .colBoth ∧ t = send s bs .colBoth (fun u => { u with state := .data })) ∨
     (s.state = .data ∧ bs = dataBytes s.chunkBytes ∧
       t = send s.setChunk bs .data (fun u => u.advance.nextChunk))) := by
  cases i with
  | pageSelect b p =>
    simp only [exec, execPageSelect, issue_eq_next] at h
    obtain ⟨h1, h2, h3⟩ := h
    simp only [encode, Encoded.transfer.injEq] at hq; subst hq
    refine ⟨h1, h2, .inl ⟨?_, h3⟩⟩
    revert h2; unfold dueTransfer; cases s.state <;> simp
  | colLo b p =>
    simp only [exec, execColLo, issue_eq_next] at h
    obtain ⟨h1, h2, h3⟩ := h
    simp only [encode, Encoded.transfer.injEq] at hq; subst hq
    refine ⟨h1, h2, .inr (.inl ⟨?_, h3⟩)⟩
    revert h2; unfold dueTransfer; cases s.state <;> simp
  | colHi b p =>
    simp only [exec, execColHi, issue_eq_next] at h
    obtain ⟨h1, h2, h3⟩ := h
    simp only [encode, Encoded.transfer.injEq] at hq; subst hq
    refine ⟨h1, h2, .inr (.inr (.inl ⟨?_, h3⟩))⟩
    revert h2; unfold dueTransfer; cases s.state <;> simp
  | colSelectCombined b p b' p' =>
    simp only [exec, execColSelectCombined, issue_eq_next] at h
    obtain ⟨h1, h2, h3⟩ := h
    simp only [encode, Encoded.transfer.injEq] at hq; subst hq
    refine ⟨h1, h2, .inr (.inr (.inr (.inl ⟨?_, h3⟩)))⟩
    revert h2; unfold dueTransfer; cases s.state <;> simp
  | data bytes =>
    simp only [exec, execData, issue_eq_next] at h
    obtain ⟨h1, h2, h3⟩ := h
    simp only [encode, Encoded.transfer.injEq] at hq; subst hq
    have hs : s.state = .data := by revert h2; unfold dueTransfer; cases s.state <;> simp
    refine ⟨h1, h2, .inr (.inr (.inr (.inr ⟨hs, ?_, h3⟩)))⟩
    simp only [dueTransfer, hs, Option.map_eq_some_iff, Instr.data.injEq] at h2
    obtain ⟨l, h4, rfl⟩ := h2
    simp [State.chunkBytes, h4]
  | _ => simp [encode] at hq

/-- The transfer that is due is a wire transfer. -/
theorem dueTransfer_isTransfer {i : Instr} (h : dueTransfer s = some i) : ∃ bs, encode i = .transfer bs := by
  unfold dueTransfer at h
  cases hs : s.state <;> simp only [hs] at h
  case data => simp only [Option.map_eq_some_iff] at h; obtain ⟨_, -, rfl⟩ := h; exact ⟨_, rfl⟩
  all_goals cases h
  all_goals exact ⟨_, rfl⟩

end Sys2Proof.Machine
end

