-- ==== Sys2Proof/Laws/Geometry.lean ====
section
/-! SUPPORT. A valid region in natural numbers: its span, its count, and its addresses. -/
namespace Sys2Proof.Machine

theorem admitted_iff (b : Build) : admitted b = true ↔
    b.cols = 128 ∧ 1 ≤ b.pages ∧ b.pages ≤ 8 ∧ 1 ≤ b.maxChunk ∧ b.maxXfer = b.maxChunk + 1 ∧ minXfer b ≤ b.maxXfer ∧
    b.pageBase &&& 0x07#8 = 0#8 ∧ b.colLoBase &&& 0x0F#8 = 0#8 ∧ b.colHiBase &&& 0x07#8 = 0#8 := by
  simp [admitted, and_assoc]

theorem rowOk_iff (b : Build) (y h : Int) : rowOk b y h = true ↔
    0 ≤ y ∧ 0 < h ∧ y + h ≤ (b.pages * 8 : Nat) ∧ y % 8 = 0 ∧ h % 8 = 0 := by
  simp only [rowOk, Bool.and_eq_true, decide_eq_true_eq, and_assoc]; rfl

theorem colOk_iff (b : Build) (x w : Int) : colOk b x w = true ↔ 0 ≤ x ∧ 0 < w ∧ x + w ≤ b.cols := by
  simp only [colOk, Bool.and_eq_true, decide_eq_true_eq, and_assoc]

theorem lenOk_iff (op : BitVec 4) (w h : Int) (n : Nat) : lenOk op w h n = true ↔ (op = 2#4 → (n : Int) = h / 8 * w) := by
  simp only [lenOk, Bool.or_eq_true, bne_iff_ne, ne_eq, decide_eq_true_eq, imp_iff_not_or]; rfl

theorem capOk_iff (b : Build) (w h : Int) : capOk b w h = true ↔ h / 8 * w ≤ (b.pages * b.cols : Nat) := by
  simp only [capOk, decide_eq_true_eq]; rfl

/-- What the validator passes, without its order. -/
theorem validate_eq_none {b : Build} {op : BitVec 4} {x y w h : Int} {n : Nat} :
    validate b op x y w h n = none ↔
      rowOk b y h = true ∧ colOk b x w = true ∧ lenOk op w h n = true ∧ capOk b w h = true := by
  unfold validate
  cases rowOk b y h <;> cases colOk b x w <;> cases lenOk op w h n <;> cases capOk b w h <;> simp

/-- A region that passed validation, its derived registers fixed, in natural numbers. -/
structure Region.Facts (b : Build) (r : Region) : Prop where
  width   : 1 ≤ r.rw.toNat
  right   : r.colEnd = r.rx.toNat + r.rw.toNat
  inside  : r.colEnd ≤ b.cols
  span    : r.p0 ≤ r.p1
  bottom  : r.p1 < b.pages
  count   : r.nb = (r.p1 + 1 - r.p0) * r.rw.toNat
  length  : r.op = opBitmap → r.dlen.toNat = r.nb

theorem toInt_of_nonneg {v : Word} (h : 0 ≤ v.toInt) : v.toInt = v.toNat := by
  rw [BitVec.toInt_eq_toNat_cond] at h ⊢
  split <;> simp_all
  have := v.isLt
  omega

theorem Region.facts {b : Build} {r : Region} (h : r.ok b) : r.Facts b := by
  obtain ⟨-, hv, hf⟩ := h
  unfold validateRegion at hv
  rw [validate_eq_none] at hv
  obtain ⟨hrow, hcol, hlen, -⟩ := hv
  simp only [rowOk, colOk, Bool.and_eq_true, decide_eq_true_eq] at hrow hcol
  obtain ⟨⟨⟨⟨y0, h0⟩, ysum⟩, ymod⟩, hmod⟩ := hrow
  obtain ⟨⟨x0, w0⟩, xsum⟩ := hcol
  rw [rows] at ysum
  have ex := toInt_of_nonneg x0
  have ey := toInt_of_nonneg y0
  have ew := toInt_of_nonneg w0.le
  have eh := toInt_of_nonneg h0.le
  have f0 := congrArg Region.p0 hf
  have f1 := congrArg Region.p1 hf
  have f2 := congrArg Region.nb hf
  have f3 := congrArg Region.colEnd hf
  simp only [fixRegion, byteCount] at f0 f1 f2 f3
  rw [ex] at x0 xsum f3; rw [ey] at y0 ysum ymod f0 f1; rw [ew] at w0 xsum f2 f3; rw [eh] at h0 ysum hmod f1 f2
  have g2 : r.nb = r.rh.toNat / 8 * r.rw.toNat := by
    rw [← f2, show ((r.rh.toNat : Int) / 8 * (r.rw.toNat : Int)) = ((r.rh.toNat / 8 * r.rw.toNat : Nat) : Int) by push_cast; rfl]
    exact Int.toNat_natCast _
  refine ⟨by omega, by omega, by omega, by omega, by omega, ?_, ?_⟩
  · rw [g2, show r.rh.toNat / 8 = r.p1 + 1 - r.p0 by omega]
  · intro hop
    simp only [lenOk, hop, bne_self_eq_false, Bool.false_or, decide_eq_true_eq, byteCount, ew, eh] at hlen
    rw [g2]; exact_mod_cast hlen

/-- The address of byte `i` of a valid region, page and column apart, lies inside the buffer, under both layouts. -/
theorem Region.Facts.page_lt {b : Build} {r : Region} (f : r.Facts b) {i : Nat} (hi : i < r.nb) :
    r.p0 + i / r.rw.toNat ≤ r.p1 := by
  have h := f.count ▸ hi
  have : i / r.rw.toNat < r.p1 + 1 - r.p0 := by
    rw [Nat.div_lt_iff_lt_mul f.width]; exact h
  have := f.span; omega

theorem addrStrided_lt {b : Build} {r : Region} (f : r.Facts b) {i : Nat} (hi : i < r.nb) : addrStrided b r i < cap b := by
  have hp := f.page_lt hi
  have hm := Nat.mod_lt i f.width
  have := f.right; have := f.inside; have := f.bottom
  unfold addrStrided cap
  calc (r.p0 + i / r.rw.toNat) * b.cols + r.rx.toNat + i % r.rw.toNat
      < (r.p0 + i / r.rw.toNat) * b.cols + b.cols := by omega
    _ = (r.p0 + i / r.rw.toNat + 1) * b.cols := by ring
    _ ≤ b.pages * b.cols := Nat.mul_le_mul_right _ (by omega)

theorem addrLinear_lt {b : Build} {r : Region} (f : r.Facts b) {i : Nat} (hi : i < r.nb) : addrLinear b r i < cap b := by
  have h := f.count ▸ hi
  have h1 := f.right; have h2 := f.inside; have h3 := f.bottom; have h4 := f.span
  obtain ⟨n, hn⟩ : ∃ n, r.p1 + 1 - r.p0 = n + 1 := ⟨r.p1 - r.p0, by omega⟩
  rw [hn] at h
  have h5 : n * r.rw.toNat ≤ n * b.cols := Nat.mul_le_mul_left _ (by omega)
  unfold addrLinear baseAddr cap
  calc r.p0 * b.cols + r.rx.toNat + i
      < r.p0 * b.cols + r.rx.toNat + (n + 1) * r.rw.toNat := by omega
    _ = r.p0 * b.cols + (r.rx.toNat + r.rw.toNat) + n * r.rw.toNat := by ring
    _ ≤ r.p0 * b.cols + b.cols + n * b.cols := by omega
    _ = (r.p0 + n + 1) * b.cols := by ring
    _ ≤ b.pages * b.cols := Nat.mul_le_mul_right _ (by omega)

theorem addr_lt {b : Build} {r : Region} (f : r.Facts b) {i : Nat} (hi : i < r.nb) : addr b r i < cap b := by
  unfold addr; split
  · exact addrLinear_lt f hi
  · exact addrStrided_lt f hi

/-- A byte index in terms of its page and its offset in the page. -/
theorem regionIndex_div_mod {r : Region} {b : Build} (f : r.Facts b) {pg col : Nat}
    (h1 : r.rx.toNat ≤ col) (h2 : col < r.colEnd) :
    regionIndex r pg col / r.rw.toNat = pg - r.p0 ∧ regionIndex r pg col % r.rw.toNat = col - r.rx.toNat := by
  have := f.right; have hw := f.width
  unfold regionIndex
  constructor
  · rw [Nat.mul_comm, Nat.mul_add_div (by omega), Nat.div_eq_of_lt (by omega)]; omega
  · rw [Nat.mul_comm, Nat.mul_add_mod, Nat.mod_eq_of_lt (by omega)]

theorem regionIndex_lt {r : Region} {b : Build} (f : r.Facts b) {pg col : Nat} (hp : r.p0 ≤ pg) (hp' : pg ≤ r.p1)
    (h1 : r.rx.toNat ≤ col) (h2 : col < r.colEnd) : regionIndex r pg col < r.nb := by
  have h3 := f.right; have hw := f.width
  unfold regionIndex
  rw [f.count]
  calc (pg - r.p0) * r.rw.toNat + (col - r.rx.toNat) < (pg - r.p0) * r.rw.toNat + r.rw.toNat := by omega
    _ = (pg - r.p0 + 1) * r.rw.toNat := by ring
    _ ≤ (r.p1 + 1 - r.p0) * r.rw.toNat := Nat.mul_le_mul_right _ (by omega)

/-- Within a page consecutive columns stand at consecutive addresses, under both layouts. -/
theorem addr_add {b : Build} {r : Region} (f : r.Facts b) {pg col k : Nat}
    (h1 : r.rx.toNat ≤ col) (h2 : col + k < r.colEnd) :
    addr b r (regionIndex r pg (col + k)) = addr b r (regionIndex r pg col) + k := by
  obtain ⟨d1, m1⟩ := regionIndex_div_mod f h1 (by omega : col < r.colEnd)
  obtain ⟨d2, m2⟩ := regionIndex_div_mod f (by omega : r.rx.toNat ≤ col + k) h2
  unfold addr; split
  · unfold addrLinear regionIndex; omega
  · unfold addrStrided; rw [d1, m1, d2, m2]; omega

/-- The Strided address of column `col` of page `pg` is that page's and column's cell (20_memory R55). -/
theorem addrStrided_regionIndex {b : Build} {r : Region} (f : r.Facts b) {pg col : Nat} (hp : r.p0 ≤ pg)
    (h1 : r.rx.toNat ≤ col) (h2 : col < r.colEnd) :
    addrStrided b r (regionIndex r pg col) = pg * b.cols + col := by
  obtain ⟨d1, m1⟩ := regionIndex_div_mod f h1 h2
  unfold addrStrided
  rw [d1, m1, show r.p0 + (pg - r.p0) = pg by omega]; omega

end Sys2Proof.Machine
end

