-- ==== Sys2Proof/Laws/PerInstr.lean ====
section
/-! SUPPORT. Per-instruction families: the length of every instruction's encoding (30_encoding R82, R87, R97). -/
namespace Sys2Proof.Laws.EncodedLength

/-- The encoding of a well-formed instruction has a length the spec gives: one to six descriptor words, and where the
descriptor is not an illegal one as many as its `OP` has (30_encoding R80, R82); or a marker and at least one byte (R87). -/
def Statement (i : Instr) : Prop :=
  i.wellFormed = true →
    match encode i with
    | .request r =>
      ∃ w0 rest, r.words = w0 :: rest ∧ rest.length ≤ 5 ∧ (r.illegal = false → r.words.length = wordsOfOp w0)
    | .transfer bytes =>
      2 ≤ bytes.length ∧ (bytes.head? = some Config.cmdMarker ∨ bytes.head? = some Config.dataMarker)

theorem configure (a : BitVec 7) : Statement (.configure a) :=
  fun _ => ⟨1#32, [a.setWidth 32], rfl, Nat.le_of_ble_eq_true rfl, fun _ => rfl⟩

theorem bitmap (x y w h n : Word) (d : List Byte) : Statement (.bitmap x y w h n d) :=
  fun _ => ⟨2#32, [x, y, w, h, n], rfl, Nat.le_refl 5, fun _ => rfl⟩

theorem fill (x y w h : Word) (v : Byte) : Statement (.fill x y w h v) :=
  fun _ => ⟨3#32, [x, y, w, h, v.setWidth 32], rfl, Nat.le_refl 5, fun _ => rfl⟩

theorem clear : Statement .clear := fun _ => ⟨4#32, [], rfl, by decide, fun _ => rfl⟩

theorem readbuf (o n : Word) : Statement (.readbuf o n) :=
  fun _ => ⟨5#32, [o, n], rfl, Nat.le_of_ble_eq_true rfl, fun _ => rfl⟩

theorem reservedOp (r : Request) : Statement (.reservedOp r) := by
  intro h
  obtain ⟨words, d⟩ := r
  simp only [Instr.wellFormed, Bool.and_eq_true, decide_eq_true_eq] at h
  cases words with
  | nil => simp [Request.illegal] at h
  | cons w0 rest =>
    refine ⟨w0, rest, rfl, Nat.le_of_succ_le_succ h.2, fun hi => ?_⟩
    rw [hi] at h; simp at h

theorem pageSelect (b : BitVec 5) (p : BitVec 3) : Statement (.pageSelect b p) := fun _ => ⟨Nat.le_refl 2, .inl rfl⟩

theorem colLo (b c : BitVec 4) : Statement (.colLo b c) := fun _ => ⟨Nat.le_refl 2, .inl rfl⟩

theorem colHi (b : BitVec 5) (c : BitVec 3) : Statement (.colHi b c) := fun _ => ⟨Nat.le_refl 2, .inl rfl⟩

theorem colSelectCombined (l c : BitVec 4) (b : BitVec 5) (d : BitVec 3) : Statement (.colSelectCombined l c b d) :=
  fun _ => ⟨Nat.le_succ 2, .inl rfl⟩

theorem data (bytes : List Byte) : Statement (.data bytes) := by
  intro h
  cases bytes with
  | nil => simp [Instr.wellFormed] at h
  | cons v vs => exact ⟨by simp [dataBytes], .inr rfl⟩

end Sys2Proof.Laws.EncodedLength
end

