-- ==== Sys2Proof/Tests/Slice0.lean ====
section
/-! SUPPORT. Tests of the model on the spec's own vectors (95_test_vectors), the smoke tests of WellFormed, and for every
statement with hypotheses a state and operands that meet them. -/
namespace Sys2Proof.Tests
open Sys2Proof Sys2Proof.Machine

/-- What `f` reads off a next state. -/
def got {α : Type} (f : State → α) : Result → Option α
  | .next t    => some (f t)
  | .fault _   => none
  | .refused _ => none

/-! ### WellFormed -/

theorem test_wellformed_refuses_legal_descriptor : (Instr.reservedOp ⟨[4#32], []⟩).wellFormed = false := by decide

theorem test_wellformed_refuses_long_descriptor :
    (Instr.reservedOp ⟨[0#32, 0#32, 0#32, 0#32, 0#32, 0#32, 0#32], []⟩).wellFormed = false := by decide

theorem test_wellformed_refuses_empty_descriptor : (Instr.reservedOp ⟨[], []⟩).wellFormed = false := by decide

theorem test_wellformed_refuses_empty_data : (Instr.data []).wellFormed = false := by decide

theorem test_wellformed_admits :
    (Instr.reservedOp ⟨[0x13#32], []⟩).wellFormed = true ∧ (Instr.data [0#8]).wellFormed = true := by decide

/-! ### Decoding: words written out from the spec's encodings (30_encoding R81-R92) -/

/-- 30_encoding R83: OP 0x1, DEV_ADDR in w1[6:0]. -/
theorem test_decode_configure :
    decodeRequest ⟨[0b0001#32, 0b0111100#32], []⟩ = .ok (.configure 0x3C#7) ∧
    decodeRequest ⟨[1#32, 0x80#32], []⟩ = .ok (.reservedOp ⟨[1#32, 0x80#32], []⟩) := by decide

/-- 30_encoding R84 and program P3's fifth descriptor. -/
theorem test_decode_bitmap :
    decodeRequest ⟨[2#32, 0x7C#32, 0x38#32, 4#32, 8#32, 4#32], [1#8, 2#8, 0x80#8, 0xFF#8]⟩ =
      .ok (.bitmap 124#32 56#32 4#32 8#32 4#32 [1#8, 2#8, 0x80#8, 0xFF#8]) := by decide

/-- 30_encoding R85, program P2's FILL, and V-OP10 (reserved bit 8 of w5). -/
theorem test_decode_fill :
    decodeRequest ⟨[3#32, 10#32, 8#32, 40#32, 16#32, 0xAA#32], []⟩ = .ok (.fill 10#32 8#32 40#32 16#32 0xAA#8) ∧
    decodeRequest ⟨[3#32, 10#32, 8#32, 40#32, 16#32, 0x1AA#32], []⟩ =
      .ok (.reservedOp ⟨[3#32, 10#32, 8#32, 40#32, 16#32, 0x1AA#32], []⟩) := by decide

/-- 30_encoding R86. -/
theorem test_decode_clear_readbuf :
    decodeRequest ⟨[4#32], []⟩ = .ok .clear ∧
    decodeRequest ⟨[5#32, 0x3FC#32, 4#32], []⟩ = .ok (.readbuf 1020#32 4#32) := by decide

/-- 30_encoding R94: V-OP8, V-OP9, and the ends of the reserved ranges. -/
theorem test_decode_reserved :
    decodeRequest ⟨[0#32], []⟩ = .ok (.reservedOp ⟨[0#32], []⟩) ∧
    decodeRequest ⟨[0x13#32], []⟩ = .ok (.reservedOp ⟨[0x13#32], []⟩) ∧
    decodeRequest ⟨[6#32], []⟩ = .ok (.reservedOp ⟨[6#32], []⟩) ∧
    decodeRequest ⟨[15#32], []⟩ = .ok (.reservedOp ⟨[15#32], []⟩) ∧
    decodeRequest ⟨[0x80000004#32], []⟩ = .ok (.reservedOp ⟨[0x80000004#32], []⟩) := by decide

/-- Requests of no shape (log entry 5). -/
theorem test_decode_malformed :
    decodeRequest ⟨[], []⟩ = .error .malformedRequest ∧
    decodeRequest ⟨[3#32], []⟩ = .error .malformedRequest ∧
    decodeRequest ⟨[4#32], [0#8]⟩ = .error .malformedRequest := by decide

/-- 30_encoding R88: marker 10000000, then BBBBBppp with base 10110 and page 7. -/
theorem test_decode_page_select :
    decodeTransfer Config.exampleBuild .page [0b10000000#8, 0b10110111#8] = .ok (.pageSelect 0b10110#5 0b111#3) := by decide

/-- 30_encoding R89: LLLLcccc with base 0000 and column bits 1100. -/
theorem test_decode_col_lo :
    decodeTransfer Config.exampleBuild .page [0b10000000#8, 0b00001100#8] = .ok (.colLo 0#4 0b1100#4) := by decide

/-- 30_encoding R90: HHHHHccc with base 00010 and column bits 111. -/
theorem test_decode_col_hi :
    decodeTransfer Config.exampleBuild .page [0b10000000#8, 0b00010111#8] = .ok (.colHi 0b00010#5 0b111#3) := by decide

/-- 30_encoding R91: V-COL, column 0x5A. -/
theorem test_decode_combined :
    decodeTransfer Config.exampleBuild .page [0x80#8, 0x0A#8, 0x15#8] =
      .ok (.colSelectCombined 0#4 0xA#4 0b00010#5 5#3) := by decide

/-- 30_encoding R92, R87: data under the data marker; every other first byte is no marker. -/
theorem test_decode_data :
    decodeTransfer Config.exampleBuild .page [0x40#8, 0x01#8, 0xFF#8] = .ok (.data [0x01#8, 0xFF#8]) ∧
    decodeTransfer Config.exampleBuild .page [0x40#8] = .error .noDataBytes ∧
    decodeTransfer Config.exampleBuild .page [0x00#8, 0xB0#8] = .error .unknownMarker ∧
    decodeTransfer Config.exampleBuild .page [0x80#8, 0xA5#8] = .error .unknownCommand := by decide

/-- 30_encoding R95: bases that overlap are told apart by the position. -/
theorem test_decode_overlap :
    let b := { Config.exampleBuild with colHiBase := 0x00#8 }
    decodeTransfer b .colLo [0x80#8, 0x05#8] = .ok (.colLo 0#4 5#4) ∧
    decodeTransfer b .colHi [0x80#8, 0x05#8] = .ok (.colHi 0#5 5#3) := by decide

/-- Words numbered as spec/opcode_table.json numbers them (log entry 7). -/
theorem test_table_words :
    decodeTableWord 32 1 = some (.configure 0#7) ∧ decodeTableWord 32 2 = some (.bitmap 0#32 0#32 0#32 0#32 0#32 []) ∧
    decodeTableWord 32 3 = some (.fill 0#32 0#32 0#32 0#32 0#8) ∧ decodeTableWord 32 4 = some .clear ∧
    decodeTableWord 32 5 = some (.readbuf 0#32 0#32) ∧ decodeTableWord 32 0 = some (.reservedOp ⟨[0#32], []⟩) ∧
    decodeTableWord 16 0x80B7 = some (.pageSelect 0b10110#5 7#3) ∧ decodeTableWord 16 0x800C = some (.colLo 0#4 12#4) ∧
    decodeTableWord 16 0x8017 = some (.colHi 0b00010#5 7#3) ∧
    decodeTableWord 24 0x800C17 = some (.colSelectCombined 0#4 12#4 0b00010#5 7#3) ∧
    decodeTableWord 16 0x40FF = some (.data [0xFF#8]) := by decide

/-! ### States -/

/-- Configured with `CONFIGURE 0x3C` (95_test_vectors, opening), idle. -/
def idle : State := { State.reset with cfgValid := true, cfgDevAddr := 0x3C#7 }

/-- The region registers of a request accepted as `op x, y, w, h, dlen, data` or with fill byte `v`. -/
def regs (op : BitVec 4) (x y w h : Nat) (dlen : Nat) (data : List Byte) (v : Byte) : Region :=
  { Region.zero with
    op := op, rx := BitVec.ofNat 32 x, ry := BitVec.ofNat 32 y, rw := BitVec.ofNat 32 w, rh := BitVec.ofNat 32 h
    dlen := BitVec.ofNat 32 dlen, dataIn := data, fill := v }

/-- V-EN6's region, accepted. -/
def corner : Region := regs opBitmap 124 56 4 8 4 [0x01#8, 0x02#8, 0x80#8, 0xFF#8] 0#8

/-- V-EN6's bytes in the buffer. -/
def cornerBuf : Memory := [(1020, 0x01#8), (1021, 0x02#8), (1022, 0x80#8), (1023, 0xFF#8)]

/-- V-EN6 in CHECK. -/
def inCheck : State := { idle with state := .check, region := corner }

/-- V-EN6 in BUFWR. -/
def inBufwr : State := { idle with state := .bufwr, region := fixRegion corner }

/-- V-EN6 in PAGE, the transport about to answer PASS. -/
def inPage : State :=
  { inBufwr with
    state := .page, buf := cornerBuf, loop := { Loop.zero with pg := 7, rp := 1020 }
    answers := [.pass, .pass, .pass, .pass] }

/-- V-EN6 in a state between the page-select and the end of its page. -/
def inChunk (q : SeqState) : State := { inPage with state := q, loop := { Loop.zero with pg := 7, rp := 1020, col := 124 } }

/-- V-EN6 in COLBOTH, of a Combined build. -/
def inColBoth : State := { inChunk .colBoth with build := { Config.exampleBuild with framing := .combined } }

theorem test_inv_idle : idle.Inv := by constructor <;> decide
theorem test_inv_check : inCheck.Inv := by constructor <;> decide
theorem test_inv_bufwr : inBufwr.Inv := by constructor <;> decide
theorem test_inv_page : inPage.Inv := by constructor <;> decide
theorem test_inv_colLo : (inChunk .colLo).Inv := by constructor <;> decide
theorem test_inv_colHi : (inChunk .colHi).Inv := by constructor <;> decide
theorem test_inv_colBoth : inColBoth.Inv := by constructor <;> decide
theorem test_inv_data : (inChunk .data).Inv := by constructor <;> decide

/-! ### One step of each instruction -/

/-- V-OP1. -/
theorem test_configure :
    got (fun t => (t.cfgValid, t.cfgDevAddr, t.state, t.out)) (exec (.configure 0x3C#7) State.reset) =
      some (true, 0x3C#7, .idle, [.response 0#8 []]) := by decide

/-- V-OP2. -/
theorem test_reconfigure :
    got (fun t => (t.cfgDevAddr, t.fault, t.out)) (exec (.configure 0x3D#7) idle) = some (0x3C#7, [.reconfigure], []) := by
  decide

/-- V-EN6's request, accepted. -/
theorem test_bitmap :
    exec (.bitmap 124#32 56#32 4#32 8#32 4#32 [0x01#8, 0x02#8, 0x80#8, 0xFF#8]) idle = .next inCheck := rfl

/-- A BITMAP before CONFIGURE. -/
theorem test_bitmap_not_configured :
    got (fun t => (t.fault, t.state)) (exec (.bitmap 124#32 56#32 4#32 8#32 0#32 []) State.reset) =
      some ([.notConfigured], .idle) := by decide

/-- V-EN1's request, accepted. -/
theorem test_fill :
    got (fun t => (t.state, t.region.rw, t.region.fill, t.region.dlen)) (exec (.fill 0#32 0#32 64#32 8#32 0x0F#8) idle) =
      some (.check, 64#32, 0x0F#8, 0#32) := by decide

/-- V-OP13: any request while busy. -/
theorem test_busy : got (·.fault) (exec (.fill 0#32 0#32 64#32 8#32 0x0F#8) inBufwr) = some [.busy] := by decide

/-- CLEAR's region (43_region_ops R194), and V-OP7. -/
theorem test_clear :
    got (fun t => (t.region.op, t.region.rw, t.region.rh, t.region.fill)) (exec .clear idle) =
      some (opClear, 128#32, 64#32, 0#8) ∧
    got (fun t => (t.fault, t.out)) (exec .clear State.reset) = some ([.notConfigured], []) := by decide

/-- V-OP3, V-OP5. -/
theorem test_readbuf :
    got (·.out) (exec (.readbuf 1020#32 4#32) { idle with buf := cornerBuf }) =
      some [.response 0#8 [0x01#8, 0x02#8, 0x80#8, 0xFF#8]] ∧
    got (·.out) (exec (.readbuf 1024#32 0#32) idle) = some [.response 0#8 []] := by decide

/-- V-OP4, V-OP6. -/
theorem test_readbuf_range :
    got (fun t => (t.fault, t.out)) (exec (.readbuf 1020#32 5#32) idle) = some ([.hookRange], []) ∧
    got (·.out) (exec (.readbuf 0#32 2#32) State.reset) = some [.response 0#8 [0#8, 0#8]] := by decide

/-- V-OP9. -/
theorem test_reserved :
    got (fun t => (t.fault, t.out)) (step { idle with port := some ⟨[0x13#32], []⟩ }) = some ([.illegalReq], []) := by decide

/-- V-EN6, the first transfer. -/
theorem test_page_select :
    got (fun t => (t.state, t.loop.col, t.out)) (exec (.pageSelect 0b10110#5 7#3) inPage) =
      some (.colLo, 124, [.transfer 0x3C#7 [0x80#8, 0xB7#8] 2 true true .pass]) := by decide

/-- V-EN5: a failed page-select under Continue reports column RX. -/
theorem test_page_select_fails :
    got (fun t => (t.state, t.out)) (exec (.pageSelect 0b10110#5 7#3) { inPage with answers := [.fail] }) =
      some (.colLo, [.transfer 0x3C#7 [0x80#8, 0xB7#8] 2 true true .fail, .diag .xfer (.transfer .page 7 124 2)]) := by
  decide

/-- V-EN6, the second transfer; V-COL, column 124. -/
theorem test_col_lo :
    got (fun t => (t.state, t.out)) (exec (.colLo 0#4 12#4) (inChunk .colLo)) =
      some (.colHi, [.transfer 0x3C#7 [0x80#8, 0x0C#8] 2 true true .pass]) := by decide

/-- V-EN6, the third transfer; V-COL, column 124. -/
theorem test_col_hi :
    got (fun t => (t.state, t.out)) (exec (.colHi 0b00010#5 7#3) (inChunk .colHi)) =
      some (.data, [.transfer 0x3C#7 [0x80#8, 0x17#8] 2 true true .pass]) := by decide

/-- V-COL, column 124, Combined. -/
theorem test_combined :
    got (fun t => (t.state, t.out)) (exec (.colSelectCombined 0#4 12#4 0b00010#5 7#3) inColBoth) =
      some (.data, [.transfer 0x3C#7 [0x80#8, 0x0C#8, 0x17#8] 3 true true .pass]) := by decide

/-- V-EN6, the last transfer and the response. -/
theorem test_data :
    got (fun t => (t.state, t.loop.col, t.loop.rp, t.out))
      (exec (.data [0x01#8, 0x02#8, 0x80#8, 0xFF#8]) (inChunk .data)) =
      some (.idle, 128, 1024,
        [.transfer 0x3C#7 [0x40#8, 0x01#8, 0x02#8, 0x80#8, 0xFF#8] 5 true true .pass, .response 0#8 []]) := by decide

/-- V-EN4's rule on V-EN6's last transfer: FAIL under Abort ends the request. -/
theorem test_data_aborts :
    got (fun t => (t.result, t.out.drop 1))
      (exec (.data [0x01#8, 0x02#8, 0x80#8, 0xFF#8])
        { inChunk .data with build := { Config.exampleBuild with policy := .abort }, answers := [.fail] }) =
      some (.errXfer, [.diag .xfer (.transfer .data 7 124 5), .response 5#8 []]) := by decide

/-! ### The stages between (95_test_vectors sections 2.1-2.3, 2.5, 2.7) -/

/-- V-VAL1-V-VAL7, V-VAL9. -/
theorem test_row_check :
    [validate Config.exampleBuild opBitmap 0 0 128 8 128, validate Config.exampleBuild opBitmap 0 4 128 8 128,
      validate Config.exampleBuild opBitmap 120 0 16 8 16, validate Config.exampleBuild opBitmap 0 56 128 8 128,
      validate Config.exampleBuild opBitmap 0 64 1 8 1, validate Config.exampleBuild opBitmap 0 0 1 0 0,
      validate Config.exampleBuild opBitmap 0 (-8) 1 8 1, validate Config.exampleBuild opBitmap 0 0 1 64 8] =
    [none, some .row, some .col, none, some .row, some .row, some .row, none] := by decide

/-- V-VAL11-V-VAL19, V-VAL24. -/
theorem test_col_and_len_check :
    [validate Config.exampleBuild opBitmap 127 0 1 8 1, validate Config.exampleBuild opBitmap 128 0 1 8 1,
      validate Config.exampleBuild opBitmap (-1) 0 1 8 1, validate Config.exampleBuild opBitmap 2147483647 0 1 8 1,
      validate Config.exampleBuild opBitmap 120 4 16 8 16, validate Config.exampleBuild opBitmap 0 0 4 8 3,
      validate Config.exampleBuild opBitmap 0 0 4 8 5, validate Config.exampleBuild opFill 0 0 128 64 0] =
    [none, some .col, some .col, some .col, some .row, some .len, some .len, none] := by decide

/-- V-OP12: `ERR_LEN` with its event. -/
theorem test_check_fails :
    got (fun t => (t.state, t.out)) (step { inCheck with region := regs opBitmap 0 0 4 8 3 [1#8, 2#8, 3#8] 0#8 }) =
      some (.idle, [.diag .len (.region 0 0 4 8 3), .response 3#8 []]) := by decide

/-- V-EN6's buffer write. -/
theorem test_buffer_write :
    got (fun t => (t.state, t.buf, t.loop.rp, t.loop.pg)) (step inBufwr) = some (.page, cornerBuf, 1020, 7) := by decide

/-- V-OP11: a short data list. -/
theorem test_underrun :
    got (fun t => (t.fault, t.buf, t.out))
      (step { inBufwr with region := fixRegion (regs opBitmap 0 0 4 8 4 [1#8, 2#8] 0#8) }) =
      some ([.dataUnderrun], [(0, 1#8), (1, 2#8)], []) := by decide

/-- V-PL4 under both layouts. -/
theorem test_placement :
    (List.range 6).map (addrLinear Config.exampleBuild (fixRegion (regs opFill 5 16 3 16 0 [] 0#8))) =
      [261, 262, 263, 264, 265, 266] ∧
    (List.range 6).map (addrStrided Config.exampleBuild (fixRegion (regs opFill 5 16 3 16 0 [] 0#8))) =
      [261, 262, 263, 389, 390, 391] := by decide

/-- V-PK6. -/
theorem test_pack :
    pack (fun r c => (r == 0 && c == 0) || (r == 1 && c == 1) || (r == 9 && c == 0)) 0 0 2 16 =
      [0x01#8, 0x02#8, 0x02#8, 0x00#8] := by decide

/-- V-CH: W = 128, MAX_CHUNK = 31, Separate: 5 chunks, 16 transfers. -/
theorem test_chunks :
    chunksPerPage Config.exampleBuild (fixRegion (regs opFill 0 0 128 8 0 [] 0#8)) = 5 ∧
    transferCount Config.exampleBuild (fixRegion (regs opFill 0 0 128 8 0 [] 0#8)) = 16 ∧
    transferCount Config.exampleBuild (fixRegion (regs opClear 0 0 128 64 0 [] 0#8)) = 128 := by decide

/-! ### For every statement with hypotheses, a state and operands that meet them (named after the statement) -/

/-- The least build: one page, one byte a chunk. -/
def least : Build := { Config.exampleBuild with pages := 1, maxXfer := 2, maxChunk := 1 }

/-- A two-page, full-width fill and a one-column region of every page, valid. -/
def wide : Region := fixRegion (regs opFill 0 8 128 16 0 [] 1#8)
def tall : Region := fixRegion (regs opFill 127 0 1 64 0 [] 1#8)

/-- A block at rest with V-PL4's shape on the first two pages, its bytes in the buffer as `LAYOUT` places them. -/
def twoPages (l : Layout) : State :=
  { idle with
    build := { Config.exampleBuild with layout := l }
    region := fixRegion (regs opBitmap 5 0 2 16 4 [1#8, 2#8, 3#8, 4#8] 0#8)
    buf := match l with
      | .linear  => [(5, 1#8), (6, 2#8), (7, 3#8), (8, 4#8)]
      | .strided => [(5, 1#8), (6, 2#8), (133, 3#8), (134, 4#8)] }

/-- CLEAR in BUFWR. -/
def inClear : State := { idle with state := .bufwr, region := fixRegion (loadFill Region.zero opClear 0#32 0#32 128#32 64#32 0#8) }

/-- A one-column FILL in BUFWR. -/
def inFill : State := { idle with state := .bufwr, region := tall }

theorem test_ResetMeetsTheInvariant : admitted Config.exampleBuild = true ∧ admitted least = true := by decide

theorem test_IdleBlockWaitsForARequest : State.reset.ready ∧ State.reset.quiet := by decide

theorem test_FaultedBlockTakesNoStep :
    let s : State := { State.reset with fault := [.busy] }
    admitted s.build = true ∧ s.fault ≠ [] := by decide

theorem test_BuildOutsideTheConstraintsIsRefused :
    (∃ s : State, s.build.pages < 1) ∧ (∃ s : State, 8 < s.build.pages) ∧ (∃ s : State, s.build.maxChunk < 1) ∧
    (∃ s : State, s.build.cols ≠ 128) ∧ (∃ s : State, s.build.pageBase &&& 0x07#8 ≠ 0#8) ∧
    (∃ s : State, s.build.colLoBase &&& 0x0F#8 ≠ 0#8) ∧ (∃ s : State, s.build.colHiBase &&& 0x07#8 ≠ 0#8) :=
  ⟨⟨State.resetOf { Config.exampleBuild with pages := 0 }, by decide⟩,
   ⟨State.resetOf { Config.exampleBuild with pages := 9 }, by decide⟩,
   ⟨State.resetOf { Config.exampleBuild with maxChunk := 0 }, by decide⟩,
   ⟨State.resetOf { Config.exampleBuild with cols := 127 }, by decide⟩,
   ⟨State.resetOf { Config.exampleBuild with pageBase := 0xB1#8 }, by decide⟩,
   ⟨State.resetOf { Config.exampleBuild with colLoBase := 0x08#8 }, by decide⟩,
   ⟨State.resetOf { Config.exampleBuild with colHiBase := 0x14#8 }, by decide⟩⟩

theorem test_StepRunsThePresentedRequest :
    decodeRequest ⟨[4#32], []⟩ = .ok .clear ∧ ({ inCheck with port := some ⟨[4#32], []⟩ } : State).port = some ⟨[4#32], []⟩ ∧
    ({ idle with queue := [⟨[4#32], []⟩] } : State).port = none ∧ idle.state = .idle := by decide

theorem test_StepRunsTheDueTransfer :
    (inPage.Inv ∧ inPage.port = none ∧ dueTransfer inPage = some (.pageSelect 0b10110#5 7#3)) ∧
    ((inChunk .colLo).Inv ∧ (inChunk .colLo).port = none ∧ dueTransfer (inChunk .colLo) = some (.colLo 0#4 12#4)) ∧
    ((inChunk .colHi).Inv ∧ (inChunk .colHi).port = none ∧ dueTransfer (inChunk .colHi) = some (.colHi 0b00010#5 7#3)) ∧
    (inColBoth.Inv ∧ inColBoth.port = none ∧ dueTransfer inColBoth = some (.colSelectCombined 0#4 12#4 0b00010#5 7#3)) ∧
    ((inChunk .data).Inv ∧ (inChunk .data).port = none ∧ dueTransfer (inChunk .data) = some (.data [0x01#8, 0x02#8, 0x80#8, 0xFF#8])) :=
  ⟨⟨test_inv_page, by decide⟩, ⟨test_inv_colLo, by decide⟩, ⟨test_inv_colHi, by decide⟩, ⟨test_inv_colBoth, by decide⟩,
   ⟨test_inv_data, by decide⟩⟩

theorem test_MalformedRequestIsRefused :
    ({ idle with port := some ⟨[3#32], []⟩ } : State).ready ∧ decodeRequest ⟨[3#32], []⟩ = .error .malformedRequest := by decide

theorem test_ConfigureSuppliesTheAddress : State.reset.ready ∧ State.reset.cfgValid = false := by decide

theorem test_SecondConfigureRecordsItsFault : idle.ready ∧ idle.cfgValid = true := by decide

theorem test_RegionRequestBeforeConfigureFaults : State.reset.ready ∧ State.reset.cfgValid = false := by decide

theorem test_RequestWhileBusyFaults :
    inPage.runs ∧ inPage.state ≠ .idle ∧ isRequest .clear = true ∧
    ({ inPage with port := some ⟨[], []⟩ } : State).runs ∧ ({ inPage with port := some ⟨[], []⟩ } : State).port = some ⟨[], []⟩ := by
  decide

theorem test_IllegalDescriptorFaults :
    (∀ r : Request, ({ idle with port := some r } : State).ready ∧ ({ idle with port := some r } : State).port = some r) ∧
    ((0#32 : Word).extractLsb' 0 4 = 0#4 ∧ (6#32 : Word).extractLsb' 0 4 = 6#4 ∧ (15#32 : Word).extractLsb' 0 4 = 15#4 ∧
      6#4 ≤ (15#4 : BitVec 4)) ∧
    (0x13#32 : Word).extractLsb' 4 28 ≠ 0#28 ∧
    ((1#32 : Word).extractLsb' 0 4 = 1#4 ∧ (0x80#32 : Word).extractLsb' 7 25 ≠ 0#25 ∧ [0x80#32].length ≤ 5) ∧
    ((3#32 : Word).extractLsb' 0 4 = 3#4 ∧ (0x1AA#32 : Word).extractLsb' 8 24 ≠ 0#24 ∧
      [0#32, 0#32, 0#32, 0#32, 0x1AA#32].length ≤ 5) :=
  ⟨fun _ => ⟨(by decide : idle.ready), rfl⟩, by decide⟩

theorem test_ReservedOpRecordsItsFault : State.reset.ready := by decide

theorem test_BitmapIsAccepted : idle.ready ∧ idle.cfgValid = true := by decide

theorem test_FillIsAccepted : idle.ready ∧ idle.cfgValid = true := by decide

theorem test_ClearIsAcceptedAndAlwaysValid :
    ({ idle with build := least } : State).ready ∧ ({ idle with build := least } : State).cfgValid = true := by decide

theorem test_ClearRunsAsFillOfTheSurface :
    idle.ready ∧ idle.quiet ∧ idle.cfgValid = true ∧
    ∃ t u, exec .clear idle = .next t ∧
      exec (.fill 0#32 0#32 (BitVec.ofNat 32 idle.build.cols) (BitVec.ofNat 32 (idle.build.pages * 8)) 0#8) idle = .next u ∧
      ∃ t', Host.Core.run core 1 t = .next t' ∧ t'.state = .bufwr :=
  ⟨by decide, by decide, by decide, _, _, rfl, rfl, _, rfl, by decide⟩

theorem test_ReadbufAnswersTheBytes :
    idle.ready ∧ (1020#32 : Word).toNat + (4#32 : Word).toNat ≤ cap idle.build ∧
    (1024#32 : Word).toNat + (0#32 : Word).toNat ≤ cap idle.build := by decide

theorem test_ReadbufOutsideTheBufferFaults :
    State.reset.ready ∧ cap State.reset.build < (1020#32 : Word).toNat + (5#32 : Word).toNat := by decide

theorem test_ValidRegionsArePageRectangles :
    admitted Config.exampleBuild = true ∧ validate Config.exampleBuild opBitmap 127 56 1 8 1 = none ∧
    validate least opClear 0 0 128 8 0 = none := by decide

theorem test_FirstFailingCheckIsReported :
    (¬ (0 ≤ (4 : Int) ∧ 0 < (8 : Int) ∧ (4 : Int) + 8 ≤ (64 : Nat) ∧ (4 : Int) % 8 = 0 ∧ (8 : Int) % 8 = 0)) ∧
    ((0 ≤ (56 : Int) ∧ 0 < (8 : Int) ∧ (56 : Int) + 8 ≤ (64 : Nat) ∧ (56 : Int) % 8 = 0 ∧ (8 : Int) % 8 = 0) ∧
      ¬ (0 ≤ (128 : Int) ∧ 0 < (1 : Int) ∧ (128 : Int) + 1 ≤ (128 : Nat)) ∧
      (0 ≤ (127 : Int) ∧ 0 < (1 : Int) ∧ (127 : Int) + 1 ≤ (128 : Nat)) ∧
      ¬ (opBitmap = 2#4 → ((0 : Nat) : Int) = 8 / 8 * 1) ∧ (opBitmap = 2#4 → ((1 : Nat) : Int) = 8 / 8 * 1)) := by decide

theorem test_CapacityCheckNeverFires :
    rowOk Config.exampleBuild 0 64 = true ∧ colOk Config.exampleBuild 0 128 = true := by decide

theorem test_FailedCheckOnlyReports :
    let s (x y w h n : Nat) : State := { inCheck with region := regs opBitmap x y w h n [] 0#8 }
    (s 0 4 128 8 128).runs ∧ (s 0 4 128 8 128).port = none ∧ (s 0 4 128 8 128).state = .check ∧
    validateRegion (s 0 4 128 8 128).build (s 0 4 128 8 128).region = some .row ∧
    validateRegion (s 120 0 16 8 16).build (s 120 0 16 8 16).region = some .col ∧
    validateRegion (s 0 0 4 8 3).build (s 0 0 4 8 3).region = some .len := by decide

theorem test_PassedCheckFixesTheSpan :
    inCheck.runs ∧ inCheck.port = none ∧ inCheck.state = .check ∧ validateRegion inCheck.build inCheck.region = none := by decide

theorem test_RegionAddressesAreDistinctAndInside :
    admitted Config.exampleBuild = true ∧ wide.ok Config.exampleBuild ∧ 255 < wide.nb ∧ tall.ok Config.exampleBuild ∧
    7 < tall.nb := by decide

theorem test_LayoutsAgreeOnOnePageOrFullWidth :
    wide.ok Config.exampleBuild ∧ wide.rx.toNat = 0 ∧ wide.rw.toNat = Config.exampleBuild.cols ∧ 255 < wide.nb ∧
    (fixRegion corner).ok Config.exampleBuild ∧ (fixRegion corner).p0 = (fixRegion corner).p1 ∧ 3 < (fixRegion corner).nb := by
  decide

theorem test_BufferWritePlacesTheRegion :
    (inBufwr.Inv ∧ inBufwr.fault = [] ∧ inBufwr.port = none ∧ inBufwr.state = .bufwr ∧ inBufwr.region.op = 2#4 ∧
      inBufwr.region.nb ≤ inBufwr.region.dataIn.length) ∧
    (inFill.Inv ∧ inFill.fault = [] ∧ inFill.port = none ∧ inFill.state = .bufwr ∧ inFill.region.op ≠ 2#4) :=
  ⟨⟨test_inv_bufwr, by decide⟩, ⟨by constructor <;> decide, by decide⟩⟩

theorem test_ShortDataRecordsUnderrun :
    let s : State := { inBufwr with region := fixRegion (regs opBitmap 0 0 4 8 4 [1#8, 2#8, 3#8] 0#8) }
    s.Inv ∧ s.fault = [] ∧ s.port = none ∧ s.state = .bufwr ∧ s.region.op = 2#4 ∧
      s.region.dataIn.length < s.region.dlen.toNat :=
  ⟨by constructor <;> decide, by decide⟩

theorem test_ClearWriteZeroesTheBuffer :
    inClear.Inv ∧ inClear.fault = [] ∧ inClear.port = none ∧ inClear.state = .bufwr ∧ inClear.region.op = 4#4 ∧
      inClear.region.rx = 0#32 ∧ inClear.region.ry = 0#32 ∧ inClear.region.rw.toNat = inClear.build.cols ∧
      inClear.region.rh.toNat = inClear.build.pages * 8 ∧ inClear.region.fill = 0#8 :=
  ⟨by constructor <;> decide, by decide⟩

theorem test_PlacedRegionReadsBack_linear :
    let s := twoPages .linear
    s.ready ∧ s.region.ok s.build ∧ s.placed ∧ s.build.layout = .linear ∧
      (5#32 : Word).toNat = s.region.p0 * s.build.cols + s.region.rx.toNat ∧ (4#32 : Word).toNat = s.region.nb := by decide

theorem test_PlacedRegionReadsBack_strided :
    let s := twoPages .strided
    s.ready ∧ s.region.ok s.build ∧ s.placed ∧ s.build.layout = .strided ∧ 1 < pageCount s.region ∧
      (133#32 : Word).toNat = (s.region.p0 + 1) * s.build.cols + s.region.rx.toNat ∧ 2#32 = s.region.rw := by decide

theorem test_PackedBitsAreThePixels : 3 < 16 / 8 * 2 ∧ (7 : Nat) < 8 := by decide

theorem test_PageSelectSendsThePage : inPage.runs ∧ inPage.state = .page ∧ inPage.loop.pg < 8 := by decide

theorem test_ColumnLowSendsTheLowBits :
    let s : State := { inChunk .colLo with loop := { Loop.zero with col := 127 } }
    s.runs ∧ s.state = .colLo ∧ s.loop.col < 128 := by decide

theorem test_ColumnHighSendsTheHighBits :
    let s : State := { inChunk .colHi with loop := { Loop.zero with col := 127 } }
    s.runs ∧ s.state = .colHi ∧ s.loop.col < 128 := by decide

theorem test_CombinedSelectSendsBothBytes : inColBoth.runs ∧ inColBoth.state = .colBoth ∧ inColBoth.loop.col < 128 := by decide

theorem test_DataSendsTheChunk :
    let s := inChunk .data
    let n := min (s.region.colEnd - s.loop.col) s.build.maxChunk
    s.runs ∧ s.state = .data ∧ s.loop.rp + n ≤ cap s.build ∧ [0x01#8, 0x02#8, 0x80#8, 0xFF#8].length = n ∧
      ∀ i, i < n → [0x01#8, 0x02#8, 0x80#8, 0xFF#8][i]? = some (s.buf.read (s.loop.rp + i)) := by decide

theorem test_TransferOutOfTurnIsRefused :
    idle.runs ∧ isRequest (.colLo 0#4 0#4) = false ∧ dueTransfer idle ≠ some (.colLo 0#4 0#4) ∧
    dueTransfer inPage ≠ some (.pageSelect 0b10110#5 6#3) := by decide

theorem test_ColumnIsRecoveredFromItsBytes : admitted Config.exampleBuild = true ∧ 127 < Config.exampleBuild.cols := by decide

theorem test_FailedTransferAdvancesAsPassed :
    let s := inChunk .data
    s.port = none ∧ s.state.engine ∧ s.build.policy = .cont ∧
      got (·.st) (step { s with answers := .pass :: [] }) = some .pass ∧
      got (·.st) (step { s with answers := .fail :: [] }) = some .fail := by decide

theorem test_AbortEndsAtTheFirstFailure :
    let s : State := { inPage with build := { Config.exampleBuild with policy := .abort }, answers := [.fail] }
    s.port = none ∧ s.state.engine ∧ s.build.policy = .abort ∧ s.nextAnswer = .fail ∧
      got (·.result) (step s) = some .errXfer := by decide

theorem test_StepSendsOneTransferAndReportsFailure :
    got (·.out.length) (step idle) = some 0 ∧
    got (·.out.length) (step { inCheck with region := regs opFill 0 4 8 8 0 [] 0#8 }) = some 2 ∧
    got (·.out.length) (step inPage) = some 1 ∧ got (·.out.length) (step { inPage with answers := [.fail] }) = some 2 := by
  decide

theorem test_TransfersFitTheTransport :
    (inChunk .data).Inv ∧ got (·.out.head?) (step (inChunk .data)) =
      some (some (.transfer 0x3C#7 [0x40#8, 0x01#8, 0x02#8, 0x80#8, 0xFF#8] 5 true true .pass)) :=
  ⟨test_inv_data, by decide⟩

theorem test_OnlyTheBufferWriteChangesTheBuffer :
    got (·.buf) (step inBufwr) = some cornerBuf ∧ cornerBuf ≠ inBufwr.buf := by decide

theorem test_ConfigurationIsWrittenOnce :
    got (·.cfgDevAddr) (step inPage) = some 0x3C#7 ∧ inPage.cfgValid = true ∧
    got (·.cfgDevAddr) (step { State.reset with port := some ⟨[1#32, 0x3C#32], []⟩ }) = some 0x3C#7 := by decide

theorem test_ResultIsWrittenWithTheResponse :
    got (·.result) (step inPage) = some .resOk ∧ got (·.result) (step (inChunk .data)) = some .resOk := by decide

theorem test_StepRecordsAtMostOneFault :
    got (·.fault) (step inPage) = some [] ∧
    got (·.fault) (step { inPage with port := some ⟨[4#32], []⟩ }) = some [.busy] := by decide

theorem test_EveryStepKeepsTheInvariant : inBufwr.Inv ∧ got (·.state) (step inBufwr) = some .page :=
  ⟨test_inv_bufwr, by decide⟩

theorem test_NoStepLeavesTheBuffer : (inChunk .data).Inv := test_inv_data

theorem test_SequencerRefinesTheEngineFunction :
    inPage.Inv ∧ inPage.fault = [] ∧ inPage.quiet ∧ inPage.state = .page ∧ inPage.loop.pg = inPage.region.p0 :=
  ⟨test_inv_page, by decide⟩

theorem test_EngineSendsExactlyTheRegionsTransfers :
    inPage.Inv ∧ inPage.fault = [] ∧ inPage.quiet ∧ inPage.state = .page ∧ inPage.loop.pg = inPage.region.p0 ∧
      inPage.build.policy = .cont :=
  ⟨test_inv_page, by decide⟩

theorem test_ValidRegionRequestRunsToItsEnd :
    inCheck.Inv ∧ inCheck.fault = [] ∧ inCheck.quiet ∧ inCheck.state = .check ∧
      validateRegion inCheck.build inCheck.region = none ∧ inCheck.region.dlen.toNat ≤ inCheck.region.dataIn.length ∧
      inCheck.build.policy = .cont :=
  ⟨test_inv_check, by decide⟩

theorem test_PixelBytesSentAreTheRegionsBytes :
    admitted Config.exampleBuild = true ∧ tall.ok Config.exampleBuild ∧ (regionBytes tall).length = tall.nb := by decide

theorem test_ChunkScheduleOfAPage :
    admitted Config.exampleBuild = true ∧ (fixRegion corner).ok Config.exampleBuild ∧
    (regionBytes (fixRegion corner)).length = (fixRegion corner).nb ∧ 0 < pageCount (fixRegion corner) ∧
    tall.ok Config.exampleBuild ∧ (regionBytes tall).length = tall.nb ∧ 7 < pageCount tall := by decide

theorem test_RequestsDecodeToThemselves :
    (Instr.reservedOp ⟨[0x13#32], []⟩).wellFormed = true ∧ encode (.reservedOp ⟨[0x13#32], []⟩) = .request ⟨[0x13#32], []⟩ ∧
    encode (.configure 0x7F#7) = .request ⟨[1#32, 0x7F#32], []⟩ := by decide

theorem test_DecodedRequestsEncodeBack : decodeRequest ⟨[5#32, 1#32, 2#32], []⟩ = .ok (.readbuf 1#32 2#32) := by decide

theorem test_TransfersDecodeToThemselves :
    admitted Config.exampleBuild = true ∧ admitted { least with colHiBase := 0x00#8 } = true ∧ ([0#8] : List Byte) ≠ [] := by
  decide

end Sys2Proof.Tests
end

section
/-! PROOFS. The scope (00_scope R6): every instruction and every step passes the guard `live`, so a build outside the
constraints is refused. -/
namespace Sys2Proof.Machine

/-- Every instruction runs behind the guard of its own state. -/
theorem exec_eq_live (i : Instr) (s : State) : ∃ k, exec i s = live s k := by
  cases i <;> exact ⟨_, rfl⟩

/-- A presented request, well-formed or not, runs behind the guard of the state it is presented in. -/
theorem present_eq_live (r : Request) (s : State) : ∃ k, present r s = live s k := by
  unfold present
  split
  · exact exec_eq_live _ s
  · exact ⟨_, rfl⟩

theorem sequencerStep_eq_live (s : State) : ∃ k, sequencerStep s = live s k := by
  unfold sequencerStep
  split
  case h_1 | h_2 | h_3 => exact ⟨_, rfl⟩
  all_goals
    split
    · exact exec_eq_live _ s
    · exact ⟨_, rfl⟩

/-- Taking the presented request leaves what the guard reads. -/
theorem offered_build_fault {s u : State} {r : Request} (h : s.offered = some (r, u)) :
    u.build = s.build ∧ u.fault = s.fault := by
  obtain ⟨-, hu⟩ | ⟨-, -, -, hu⟩ := offered_cases h <;> rw [hu] <;> exact ⟨rfl, rfl⟩

/-- Every step runs behind the guard, at a state with the build and the faults of the one it starts from. -/
theorem step_eq_live (s : State) : ∃ u k, step s = live u k ∧ u.build = s.build ∧ u.fault = s.fault := by
  unfold step cycle
  split
  · next r u ho =>
    obtain ⟨k, hk⟩ := present_eq_live r u
    exact ⟨u, k, hk, offered_build_fault ho⟩
  · obtain ⟨k, hk⟩ := sequencerStep_eq_live s
    exact ⟨s, k, hk, rfl, rfl⟩

theorem exec_refused {s : State} (hb : admitted s.build = false) (i : Instr) : exec i s = .refused .buildRefused := by
  obtain ⟨k, hk⟩ := exec_eq_live i s
  rw [hk, live_refused hb]

theorem step_refused {s : State} (hb : admitted s.build = false) : step s = .refused .buildRefused := by
  obtain ⟨u, k, hk, hu, -⟩ := step_eq_live s
  rw [hk, live_refused (hu ▸ hb)]

/-- Each constraint of 00_scope R6 is one that `admitted` checks. -/
theorem admitted_eq_false_of_broken {b : Build}
    (h : b.pages < 1 ∨ 8 < b.pages ∨ b.maxChunk < 1 ∨ b.cols ≠ 128 ∨
      b.pageBase &&& 0x07#8 ≠ 0#8 ∨ b.colLoBase &&& 0x0F#8 ≠ 0#8 ∨ b.colHiBase &&& 0x07#8 ≠ 0#8) :
    admitted b = false := by
  rw [Bool.eq_false_iff]
  intro hb
  obtain ⟨hcols, hpages, hpages8, hchunk, -, -, hpage, hlo, hhi⟩ := (admitted_iff b).mp hb
  obtain h | h | h | h | h | h | h := h
  · exact absurd hpages (Nat.not_le.mpr h)
  · exact absurd hpages8 (Nat.not_le.mpr h)
  · exact absurd hchunk (Nat.not_le.mpr h)
  · exact h hcols
  · exact h hpage
  · exact h hlo
  · exact h hhi

/-- Settles O5: a broken constraint makes the build not admitted, and the guard before every step and every instruction
refuses such a build. -/
theorem buildOutsideTheConstraintsIsRefused : Obligations.BuildOutsideTheConstraintsIsRefused := by
  intro s h
  have hb : admitted s.build = false := admitted_eq_false_of_broken h
  exact ⟨step_refused hb, exec_refused hb⟩

end Sys2Proof.Machine
end

section
/-! PROOFS. Reset (10_state R34), and a block that has stopped (10_state R31). -/
namespace Sys2Proof.Machine

/-- Settles O1: every row is the value `State.resetOf` gives its field; the empty buffer reads 0x00 everywhere. -/
theorem resetLeavesTheTableOfValues : Obligations.ResetLeavesTheTableOfValues :=
  ⟨rfl, fun _ => ⟨rfl, rfl, fun _ => rfl, rfl, rfl, rfl, rfl, rfl, rfl, rfl, rfl⟩⟩

/-- Settles O2: the empty buffer is canonical, and every clause about a request in progress is about a state other than
IDLE, where reset leaves the sequencer. -/
theorem resetMeetsTheInvariant : Obligations.ResetMeetsTheInvariant := by
  intro b hb
  have hidle : (State.resetOf b).state = .idle := rfl
  constructor
  case build => exact hb
  case memory => exact Memory.reset_wf _
  case faults => exact Nat.zero_le 1
  all_goals simp [hidle]

/-- Settles O4: the guard before every step and every instruction stops a block that has recorded a fault. -/
theorem faultedBlockTakesNoStep : Obligations.FaultedBlockTakesNoStep := by
  intro s hb hf
  constructor
  · obtain ⟨u, k, hk, hbuild, hfault⟩ := step_eq_live s
    rw [hk, live_stopped (hbuild ▸ hb) (hfault ▸ hf), hfault]
  · intro i
    obtain ⟨k, hk⟩ := exec_eq_live i s
    rw [hk, live_stopped hb hf]

end Sys2Proof.Machine
end

section
/-! PROOFS. What a step does to `RESULT`, `FAULT` and the outputs (10_state R28, R31): it goes on without a response, or it
completes a request, or it records a fault. -/
namespace Sys2Proof.Machine

variable {s t u : State}

/-- From `s` to `t` only other registers are written: nothing is sent, answered or recorded. -/
structure Silent (s t : State) : Prop where
  out    : t.out = s.out
  result : t.result = s.result
  fault  : t.fault = s.fault

/-- From `s` to `t` nothing is answered and nothing recorded: only events that are no response are sent. -/
structure Continues (s t : State) : Prop where
  sends  : ∃ es, t.out = s.out ++ es ∧ ∀ c bs, Event.response c bs ∉ es
  result : t.result = s.result
  fault  : t.fault = s.fault

/-- From `s` to `t` a request completes: the last event sent is the response, with the code of `RESULT`. -/
structure Completes (s t : State) : Prop where
  sends : ∃ es bs, t.out = s.out ++ es ++ [.response (resultValue t.result) bs]
  idle  : t.state = .idle
  fault : t.fault = s.fault

/-- From `s` to `t` one model fault is recorded and nothing is sent. -/
structure Records (s t : State) : Prop where
  fault  : ∃ f, t.fault = withFault s.fault f
  out    : t.out = s.out
  result : t.result = s.result

/-- A step that records no fault goes on or completes. -/
def Advances (s t : State) : Prop := Continues s t ∨ Completes s t

/-! ### Each named operation -/

theorem Silent.continues (h : Silent s t) : Continues s t :=
  ⟨⟨[], by simp [h.out], by simp⟩, h.result, h.fault⟩

theorem Silent.advances (h : Silent s t) : Advances s t := .inl h.continues

theorem Continues.emit_diag (s : State) (k : DiagKind) (info : DiagInfo) : Continues s (s.emit (.diag k info)) :=
  ⟨⟨[.diag k info], rfl, by simp⟩, rfl, rfl⟩

theorem Continues.xfer (s : State) (bytes : List Byte) : Continues s (s.xfer bytes) :=
  ⟨⟨_, s.xfer_out bytes, by simp [State.transferEvent]⟩, s.xfer_result bytes, s.xfer_fault bytes⟩

theorem Continues.finish (r : ResultCode) (bytes : List Byte) (hsu : Continues s u) :
    Completes s (u.finish r bytes) := by
  obtain ⟨⟨es, hes, -⟩, -, hfault⟩ := hsu
  exact ⟨⟨es, bytes, by simp [hes]⟩, rfl, hfault⟩

theorem Silent.raise (f : ModelFault) (hsu : Silent s u) : Records s (u.raise f) :=
  ⟨⟨f, by simp [hsu.fault]⟩, hsu.out, hsu.result⟩

/-! ### One after the other -/

theorem Continues.trans (hsu : Continues s u) (hut : Continues u t) : Continues s t := by
  obtain ⟨⟨es, hes, hno⟩, hr, hf⟩ := hsu
  obtain ⟨⟨es', hes', hno'⟩, hr', hf'⟩ := hut
  exact ⟨⟨es ++ es', by simp [hes', hes], by simp [hno, hno']⟩, hr'.trans hr, hf'.trans hf⟩

theorem Continues.completes (hsu : Continues s u) (hut : Completes u t) : Completes s t := by
  obtain ⟨⟨es, hes, -⟩, -, hf⟩ := hsu
  obtain ⟨⟨es', bs, hes'⟩, hidle, hf'⟩ := hut
  exact ⟨⟨es ++ es', bs, by simp [hes', hes]⟩, hidle, hf'.trans hf⟩

theorem Continues.advances (hsu : Continues s u) (hut : Advances u t) : Advances s t :=
  hut.imp hsu.trans hsu.completes

theorem Silent.records (hsu : Silent s u) (hut : Records u t) : Records s t := by
  obtain ⟨⟨f, hf⟩, hout, hresult⟩ := hut
  exact ⟨⟨f, by rw [hf, hsu.fault]⟩, hout.trans hsu.out, hresult.trans hsu.result⟩

/-! ### Requests -/

theorem offered_silent {r : Request} (h : s.offered = some (r, u)) : Silent s u := by
  obtain ⟨-, hu⟩ | ⟨-, -, -, hu⟩ := offered_cases h <;> rw [hu] <;> exact ⟨rfl, rfl, rfl⟩

/-- What a request does in the state it is presented in, the step that takes it does. -/
theorem offered_advances_or_records {r : Request} (h : s.offered = some (r, u))
    (hut : Advances u t ∨ Records u t) : Advances s t ∨ Records s t := by
  have hsu : Silent s u := offered_silent h
  exact hut.imp hsu.continues.advances hsu.records

/-- A request, once presented, answers, records its fault, or goes on to CHECK. -/
theorem exec_request_advances_or_records {i : Instr} {q : Request} (hq : encode i = .request q)
    (h : exec i s = .next t) : Advances s t ∨ Records s t := by
  obtain ⟨-, ⟨-, ht⟩ | ⟨-, ⟨f, ht, -⟩ | ⟨a, -, -, ht⟩ | ⟨a, -, -, ht⟩ | ht | ⟨bytes, ht⟩ | ⟨r, -, -, ht⟩⟩⟩ :=
    exec_request_cases hq h <;> rw [ht]
  · exact .inr (Silent.raise .busy ⟨rfl, rfl, rfl⟩)
  · exact .inr (Silent.raise f ⟨rfl, rfl, rfl⟩)
  · exact .inr (Silent.raise .reconfigure ⟨rfl, rfl, rfl⟩)
  · exact .inl (.inr (Continues.finish .resOk [] (Silent.continues ⟨rfl, rfl, rfl⟩)))
  · exact .inr (Silent.raise .hookRange ⟨rfl, rfl, rfl⟩)
  · exact .inl (.inr (Continues.finish .resOk bytes (Silent.continues ⟨rfl, rfl, rfl⟩)))
  · exact .inl (Silent.advances ⟨rfl, rfl, rfl⟩)

/-! ### The sequencer -/

theorem checked_advances (s : State) : Advances s s.checked := by
  obtain ⟨-, h⟩ | ⟨e, -, h⟩ := checked_cases s <;> rw [h]
  · exact Silent.advances ⟨rfl, rfl, rfl⟩
  · exact .inr ((Continues.emit_diag s _ _).finish (geomResult e) [])

theorem stepBufwr_advances_or_records (h : stepBufwr s = .next t) : Advances s t ∨ Records s t := by
  obtain ⟨-, m, -, ⟨-, ht⟩ | ⟨-, ht⟩⟩ := stepBufwr_eq_next.mp h <;> rw [ht]
  · exact .inr (Silent.raise .dataUnderrun ⟨rfl, rfl, rfl⟩)
  · exact .inl (Silent.advances ⟨rfl, rfl, rfl⟩)

/-! ### Transfers -/

/-- A transfer advances when what follows it does, whatever the answer and the policy. -/
theorem send_advances (s : State) (bytes : List Byte) (kind : XKind) {k : State → State}
    (hk : ∀ u, Advances u (k u)) : Advances s (send s bytes kind k) := by
  have hx : Continues s (s.xfer bytes) := .xfer s bytes
  have he : Continues s ((s.xfer bytes).emit (s.xferDiag kind bytes.length)) := hx.trans (.emit_diag _ _ _)
  obtain ⟨-, h⟩ | ⟨-, -, h⟩ | ⟨-, -, h⟩ := send_cases s bytes kind k <;> rw [h]
  · exact hx.advances (hk _)
  · exact he.advances (hk _)
  · exact .inr (he.finish .errXfer [])

theorem nextChunk_advances (s : State) : Advances s s.nextChunk := by
  unfold State.nextChunk
  split
  · exact Silent.advances ⟨rfl, rfl, rfl⟩
  · split
    · exact Silent.advances ⟨rfl, rfl, rfl⟩
    · exact .inr (Continues.finish .resOk [] (Silent.continues ⟨rfl, rfl, rfl⟩))

/-- Every wire transfer has one shape: it updates loop registers, sends, and then moves the sequencer, or after a chunk
advances it. -/
theorem exec_transfer_eq_send {i : Instr} {bytes : List Byte} (hq : encode i = .transfer bytes)
    (h : exec i s = .next t) :
    ∃ l kind k, t = send { s with loop := l } bytes kind k ∧
      ((∃ q : State → SeqState, k = fun u => { u with state := q u }) ∨ k = fun u => u.advance.nextChunk) := by
  obtain ⟨-, -, ⟨-, ht⟩ | ⟨-, ht⟩ | ⟨-, ht⟩ | ⟨-, ht⟩ | ⟨-, -, ht⟩⟩ := exec_transfer_cases hq h
  · exact ⟨s.startPage.loop, _, _, ht, .inl ⟨_, rfl⟩⟩
  · exact ⟨s.loop, _, _, ht, .inl ⟨_, rfl⟩⟩
  · exact ⟨s.loop, _, _, ht, .inl ⟨_, rfl⟩⟩
  · exact ⟨s.loop, _, _, ht, .inl ⟨_, rfl⟩⟩
  · exact ⟨s.setChunk.loop, _, _, ht, .inr rfl⟩

theorem exec_transfer_advances {i : Instr} {bytes : List Byte} (hq : encode i = .transfer bytes)
    (h : exec i s = .next t) : Advances s t := by
  obtain ⟨l, kind, k, ht, hk⟩ := exec_transfer_eq_send hq h
  have hloop : Silent s { s with loop := l } := ⟨rfl, rfl, rfl⟩
  rw [ht]
  refine hloop.continues.advances (send_advances _ bytes kind fun u => ?_)
  obtain ⟨q, rfl⟩ | rfl := hk
  · exact Silent.advances ⟨rfl, rfl, rfl⟩
  · have hadv : Silent u u.advance := ⟨rfl, rfl, rfl⟩
    exact hadv.continues.advances (nextChunk_advances u.advance)

/-! ### The step -/

/-- The guard of the state a request is taken in is the guard of the step (00_scope R6, 10_state R31). -/
theorem step_runs (h : step s = .next t) : s.runs := by
  obtain ⟨u, k, hk, hbuild, hfault⟩ := step_eq_live s
  obtain ⟨hb, hf⟩ := (live_eq_next.mp (hk ▸ h)).1
  exact ⟨hbuild ▸ hb, hfault ▸ hf⟩

/-- Everything a step can do to `RESULT`, `FAULT` and the outputs. -/
theorem step_advances_or_records (h : step s = .next t) : Advances s t ∨ Records s t := by
  obtain ⟨r, u, i, ho, hi, hx⟩ | ⟨r, u, ho, -, -, ht⟩ | ⟨-, -, -, ht⟩ | ⟨-, -, -, ht⟩ | ⟨-, -, hx⟩ |
    ⟨-, -, i, hi, hx⟩ := step_cases h
  · obtain ⟨q, hq⟩ := decodeRequest_isRequest hi
    exact offered_advances_or_records ho (exec_request_advances_or_records hq hx)
  · exact offered_advances_or_records ho (.inr (ht ▸ Silent.raise .busy ⟨rfl, rfl, rfl⟩))
  · exact .inl (ht ▸ Silent.advances ⟨rfl, rfl, rfl⟩)
  · exact .inl (ht ▸ checked_advances s)
  · exact stepBufwr_advances_or_records hx
  · obtain ⟨bytes, hq⟩ := dueTransfer_isTransfer hi
    exact .inl (exec_transfer_advances hq hx)

/-- Settles O46: of the three things a step can do, only completing a request writes `RESULT` and sends a response. -/
theorem resultIsWrittenWithTheResponse : Obligations.ResultIsWrittenWithTheResponse := by
  intro s t h
  obtain (⟨⟨es, hes, hno⟩, hresult, -⟩ | ⟨⟨es, bs, hes⟩, hidle, -⟩) | ⟨-, hout, hresult⟩ := step_advances_or_records h
  · exact .inr ⟨hresult, by simpa [hes] using hno⟩
  · exact .inl ⟨es, bs, hes, hidle⟩
  · exact .inr ⟨hresult, by simp [hout]⟩

/-- Settles O47: a step starts with `FAULT` empty; one that goes on or completes leaves it so, and one that records adds a
single fault. -/
theorem stepRecordsAtMostOneFault : Obligations.StepRecordsAtMostOneFault := by
  intro s t h
  have hs : s.fault = [] := (step_runs h).2
  refine ⟨hs, ?_⟩
  obtain (⟨-, -, hfault⟩ | ⟨-, -, hfault⟩) | ⟨⟨f, hf⟩, hout, hresult⟩ := step_advances_or_records h
  · exact .inl (hfault.trans hs)
  · exact .inl (hfault.trans hs)
  · exact .inr ⟨f, by simp [hf, hs, withFault], hout, hresult⟩

end Sys2Proof.Machine
end

section
/-! PROOFS. The configuration (10_state R21-R22, 43_region_ops R197): only an accepted CONFIGURE writes it, and no step
writes the build. -/
namespace Sys2Proof.Machine

variable {s t u : State}

/-- `s` and `t` have the build and the configuration registers in common. -/
structure SameConfig (s t : State) : Prop where
  build      : t.build = s.build
  cfgValid   : t.cfgValid = s.cfgValid
  cfgDevAddr : t.cfgDevAddr = s.cfgDevAddr

theorem SameConfig.trans (hsu : SameConfig s u) (hut : SameConfig u t) : SameConfig s t :=
  ⟨hut.build.trans hsu.build, hut.cfgValid.trans hsu.cfgValid, hut.cfgDevAddr.trans hsu.cfgDevAddr⟩

theorem offered_sameConfig {r : Request} (h : s.offered = some (r, u)) : SameConfig s u ∧ u.state = s.state := by
  obtain ⟨-, hu⟩ | ⟨-, -, -, hu⟩ := offered_cases h <;> rw [hu] <;> exact ⟨⟨rfl, rfl, rfl⟩, rfl⟩

theorem checked_sameConfig (s : State) : SameConfig s s.checked := by
  obtain ⟨-, h⟩ | ⟨e, -, h⟩ := checked_cases s <;> rw [h] <;> exact ⟨rfl, rfl, rfl⟩

theorem stepBufwr_sameConfig (h : stepBufwr s = .next t) : SameConfig s t := by
  obtain ⟨-, m, -, ⟨-, ht⟩ | ⟨-, ht⟩⟩ := stepBufwr_eq_next.mp h <;> rw [ht] <;> exact ⟨rfl, rfl, rfl⟩

theorem xfer_sameConfig (s : State) (bytes : List Byte) : SameConfig s (s.xfer bytes) :=
  ⟨s.xfer_build bytes, s.xfer_cfgValid bytes, s.xfer_cfgDevAddr bytes⟩

theorem send_sameConfig (s : State) (bytes : List Byte) (kind : XKind) {k : State → State}
    (hk : ∀ u, SameConfig u (k u)) : SameConfig s (send s bytes kind k) := by
  have hx : SameConfig s (s.xfer bytes) := xfer_sameConfig s bytes
  have he : SameConfig s ((s.xfer bytes).emit (s.xferDiag kind bytes.length)) := hx.trans ⟨rfl, rfl, rfl⟩
  obtain ⟨-, h⟩ | ⟨-, -, h⟩ | ⟨-, -, h⟩ := send_cases s bytes kind k <;> rw [h]
  · exact hx.trans (hk _)
  · exact he.trans (hk _)
  · exact he.trans ⟨rfl, rfl, rfl⟩

theorem nextChunk_sameConfig (s : State) : SameConfig s s.nextChunk := by
  unfold State.nextChunk
  split
  · exact ⟨rfl, rfl, rfl⟩
  · split <;> exact ⟨rfl, rfl, rfl⟩

theorem exec_transfer_sameConfig {i : Instr} {bytes : List Byte} (hq : encode i = .transfer bytes)
    (h : exec i s = .next t) : SameConfig s t := by
  obtain ⟨l, kind, k, ht, hk⟩ := exec_transfer_eq_send hq h
  have hloop : SameConfig s { s with loop := l } := ⟨rfl, rfl, rfl⟩
  rw [ht]
  refine hloop.trans (send_sameConfig _ bytes kind fun u => ?_)
  obtain ⟨q, rfl⟩ | rfl := hk
  · exact ⟨rfl, rfl, rfl⟩
  · have hadv : SameConfig u u.advance := ⟨rfl, rfl, rfl⟩
    exact hadv.trans (nextChunk_sameConfig u.advance)

/-- A request keeps the configuration, unless it is the CONFIGURE of an idle block that has none. -/
theorem exec_request_sameConfig_or_configures {i : Instr} {q : Request} (hq : encode i = .request q)
    (h : exec i s = .next t) :
    SameConfig s t ∨
      (i = .configure t.cfgDevAddr ∧ s.state = .idle ∧ s.cfgValid = false ∧ t.cfgValid = true ∧ t.build = s.build) := by
  obtain ⟨-, ⟨-, ht⟩ | ⟨hidle, ⟨f, ht, -⟩ | ⟨a, -, -, ht⟩ | ⟨a, hi, hnew, ht⟩ | ht | ⟨bytes, ht⟩ | ⟨r, -, -, ht⟩⟩⟩ :=
    exec_request_cases hq h <;> rw [ht]
  -- the fourth case is the first CONFIGURE; no other writes the registers
  case inr.inr.inr.inl => exact .inr ⟨hi, hidle, hnew, rfl, rfl⟩
  all_goals exact .inl ⟨rfl, rfl, rfl⟩

/-- Everything a step can do to the configuration. -/
theorem step_sameConfig_or_configures (h : step s = .next t) :
    SameConfig s t ∨
      (s.state = .idle ∧ s.cfgValid = false ∧ t.cfgValid = true ∧ t.build = s.build ∧
        ∃ r u, s.offered = some (r, u) ∧ decodeRequest r = .ok (.configure t.cfgDevAddr)) := by
  obtain ⟨r, u, i, ho, hi, hx⟩ | ⟨r, u, ho, -, -, ht⟩ | ⟨-, -, -, ht⟩ | ⟨-, -, -, ht⟩ | ⟨-, -, hx⟩ |
    ⟨-, -, i, hi, hx⟩ := step_cases h
  · obtain ⟨hsu, hstate⟩ := offered_sameConfig ho
    obtain ⟨q, hq⟩ := decodeRequest_isRequest hi
    obtain hsame | ⟨rfl, hidle, hnew, hnow, hb⟩ := exec_request_sameConfig_or_configures hq hx
    · exact .inl (hsu.trans hsame)
    · exact .inr ⟨hstate ▸ hidle, hsu.cfgValid ▸ hnew, hnow, hb.trans hsu.build, r, u, ho, hi⟩
  · obtain ⟨⟨hbuild, hvalid, haddr⟩, -⟩ := offered_sameConfig ho
    exact .inl (ht ▸ ⟨hbuild, hvalid, haddr⟩)
  · exact .inl (ht ▸ ⟨rfl, rfl, rfl⟩)
  · exact .inl (ht ▸ checked_sameConfig s)
  · exact .inl (stepBufwr_sameConfig hx)
  · obtain ⟨bytes, hq⟩ := dueTransfer_isTransfer hi
    exact .inl (exec_transfer_sameConfig hq hx)

/-- Settles O45: a step that keeps the configuration keeps it in either case; the one CONFIGURE that writes it starts from a
block not yet configured. -/
theorem configurationIsWrittenOnce : Obligations.ConfigurationIsWrittenOnce := by
  intro s t h
  obtain ⟨hbuild, hvalid, haddr⟩ | ⟨hidle, hnew, hnow, hbuild, hreq⟩ := step_sameConfig_or_configures h
  · exact ⟨hbuild, fun hc => ⟨hvalid.trans hc, haddr⟩, fun hc => .inl ⟨hvalid.trans hc, haddr⟩⟩
  · exact ⟨hbuild, fun hc => absurd hc (by simp [hnew]), fun _ => .inr ⟨hnow, hidle, hreq⟩⟩

end Sys2Proof.Machine
end

section
/-! PROOFS. The bytes of a valid region in the buffer: their addresses rise, so each keeps its byte (20_memory R58,
41_buffer_packing R133), and a chunk's addresses are the buffer's. -/
namespace Sys2Proof.Machine

variable {b : Build} {r : Region}

theorem addrStrided_lt_of_lt (f : r.Facts b) {i j : Nat} (hij : i < j) : addrStrided b r i < addrStrided b r j := by
  have hright := f.right; have hinside := f.inside
  have hi := Nat.div_add_mod i r.rw.toNat
  have hj := Nat.div_add_mod j r.rw.toNat
  unfold addrStrided
  obtain heq | hlt := (Nat.div_le_div_right hij.le : i / r.rw.toNat ≤ j / r.rw.toNat).eq_or_lt
  · rw [heq] at hi ⊢
    omega
  · have hmod := Nat.mod_lt i f.width
    calc (r.p0 + i / r.rw.toNat) * b.cols + r.rx.toNat + i % r.rw.toNat
        < (r.p0 + i / r.rw.toNat + 1) * b.cols := by rw [Nat.add_one_mul]; omega
      _ ≤ (r.p0 + j / r.rw.toNat) * b.cols := Nat.mul_le_mul_right _ (by omega)
      _ ≤ (r.p0 + j / r.rw.toNat) * b.cols + r.rx.toNat + j % r.rw.toNat := by omega

/-- Later bytes of a valid region stand at higher addresses, under both layouts. -/
theorem addr_lt_of_lt (f : r.Facts b) {i j : Nat} (hij : i < j) : addr b r i < addr b r j := by
  unfold addr
  split
  · exact Nat.add_lt_add_left hij _
  · exact addrStrided_lt_of_lt f hij

theorem regionBytes_length_le (r : Region) : (regionBytes r).length ≤ r.nb := by
  unfold regionBytes
  split
  · exact List.length_take_le _ _
  · exact List.length_replicate.le

/-- The buffer write of a valid region stays inside the buffer. -/
theorem placeBytes_regionBytes_isSome (f : r.Facts b) (m : Memory) :
    (placeBytes b r (regionBytes r) 0 m).isSome = true := by
  rw [placeBytes_isSome_iff]
  intro j hj
  exact addr_lt f (by have := regionBytes_length_le r; omega)

/-- The buffer write of a valid region with all its bytes leaves them in the buffer. -/
theorem placed_of_placeBytes {s : State} (f : s.region.Facts s.build) {m : Memory} (hm : m.wf (cap s.build) = true)
    (h : placeBytes s.build s.region (regionBytes s.region) 0 m = some s.buf)
    (hlen : s.region.nb ≤ (regionBytes s.region).length) : s.placed := by
  have hlen' : (regionBytes s.region).length = s.region.nb := le_antisymm (regionBytes_length_le _) hlen
  obtain ⟨-, -, hread⟩ := placeBytes_spec h hm
  refine ⟨hlen', fun i hi => ?_⟩
  simpa using hread (fun j k hjk _ => (addr_lt_of_lt f hjk).ne) i (hlen'.symm ▸ hi)

/-! ### The address of a page's columns -/

theorem regionIndex_first (r : Region) : regionIndex r r.p0 r.rx.toNat = 0 := by
  simp [regionIndex]

/-- The region's base address is the address of its first byte, under both layouts. -/
theorem baseAddr_eq_addr (b : Build) (r : Region) : baseAddr b r = addr b r (regionIndex r r.p0 r.rx.toNat) := by
  rw [regionIndex_first]
  unfold addr
  split
  · rfl
  · simp [addrStrided, baseAddr]

/-- Under Linear the pages of a region follow one another without a gap. -/
theorem addr_nextPage (f : r.Facts b) (hl : b.layout = .linear) {pg col : Nat} (hp : r.p0 ≤ pg)
    (h1 : r.rx.toNat ≤ col) (h2 : col ≤ r.colEnd) :
    addr b r (regionIndex r pg col) + (r.colEnd - col) = addr b r (regionIndex r (pg + 1) r.rx.toNat) := by
  have hright := f.right
  simp only [addr, hl, addrLinear, regionIndex, show pg + 1 - r.p0 = pg - r.p0 + 1 by omega, Nat.add_one_mul]
  omega

/-! ### The length of a chunk (42_transfer_engine R155) -/

theorem chunkLen_le_maxChunk (b : Build) (colEnd col : Nat) : chunkLen b colEnd col ≤ b.maxChunk :=
  Nat.min_le_right _ _

theorem add_chunkLen_le {colEnd col : Nat} (h : col < colEnd) : col + chunkLen b colEnd col ≤ colEnd := by
  have : chunkLen b colEnd col ≤ colEnd - col := Nat.min_le_left _ _
  omega

theorem one_le_chunkLen (hb : admitted b = true) {colEnd col : Nat} (h : col < colEnd) :
    1 ≤ chunkLen b colEnd col := by
  obtain ⟨-, -, -, hchunk, -⟩ := (admitted_iff b).mp hb
  exact Nat.le_min.mpr ⟨by omega, hchunk⟩

end Sys2Proof.Machine
end

section
/-! PROOFS. The invariant kept by every step: in IDLE only the build, the buffer and the faults count; in the engine a
transfer leaves the registers to what follows it, so each row of 42_transfer_engine R170 is one fact about registers. -/
namespace Sys2Proof.Machine

variable {s t u : State}

/-! ### States with the same registers -/

/-- `s` and `t` have the registers of the invariant in common: they may differ in the requests waiting, the transport's
answers, `RESULT`, `ST` and the outputs. -/
structure SameRegisters (s t : State) : Prop where
  build    : t.build = s.build
  cfgValid : t.cfgValid = s.cfgValid
  state    : t.state = s.state
  region   : t.region = s.region
  loop     : t.loop = s.loop
  buf      : t.buf = s.buf
  fault    : t.fault = s.fault

theorem State.Inv.of_sameRegisters (h : s.Inv) (hst : SameRegisters s t) : t.Inv := by
  cases s; cases t
  obtain ⟨hb, hv, hq, hr, hl, hm, hf⟩ := hst
  dsimp only at hb hv hq hr hl hm hf
  subst hb hv hq hr hl hm hf
  exact { h with }

theorem offered_sameRegisters {r : Request} (h : s.offered = some (r, u)) : SameRegisters s u := by
  obtain ⟨-, hu⟩ | ⟨-, -, -, hu⟩ := offered_cases h <;> rw [hu] <;> exact ⟨rfl, rfl, rfl, rfl, rfl, rfl, rfl⟩

theorem xfer_sameRegisters (s : State) (bytes : List Byte) : SameRegisters s (s.xfer bytes) :=
  ⟨s.xfer_build bytes, s.xfer_cfgValid bytes, s.xfer_state bytes, s.xfer_region bytes, s.xfer_loop bytes,
    s.xfer_buf bytes, s.xfer_fault bytes⟩

theorem SameRegisters.emit (h : SameRegisters s t) (e : Event) : SameRegisters s (t.emit e) := { h with }

theorem SameRegisters.advance (h : SameRegisters s t) : SameRegisters s.advance t.advance :=
  { h with loop := by simp [h.loop] }

theorem SameRegisters.nextChunk (h : SameRegisters s t) : SameRegisters s.nextChunk t.nextChunk := by
  unfold State.nextChunk
  rw [h.loop, h.region, h.build]
  split
  · exact ⟨rfl, h.cfgValid, rfl, rfl, rfl, h.buf, h.fault⟩
  · split
    · exact ⟨rfl, h.cfgValid, rfl, rfl, rfl, h.buf, h.fault⟩
    · exact ⟨h.build, h.cfgValid, rfl, h.region, h.loop, h.buf, h.fault⟩

/-! ### Recording a fault, and IDLE -/

theorem length_withFault_nil_le {fs : List ModelFault} (h : fs = []) (f : ModelFault) :
    (withFault fs f).length ≤ 1 := by
  simp [withFault, h]

/-- A block whose `FAULT` is empty may record a fault. -/
theorem State.Inv.raise (h : s.Inv) (hf : s.fault = []) (f : ModelFault) : (s.raise f).Inv :=
  { h with faults := length_withFault_nil_le hf f }

/-- In IDLE nothing is asked of the registers of a request. -/
theorem State.inv_of_idle (hb : admitted s.build = true) (hm : s.buf.wf (cap s.build) = true)
    (hf : s.fault.length ≤ 1) (hidle : s.state = .idle) : s.Inv := by
  constructor
  case build => exact hb
  case memory => exact hm
  case faults => exact hf
  all_goals simp [hidle]

/-! ### Requests -/

/-- In CHECK the block is configured and the request a region request; nothing else is asked. -/
theorem State.inv_of_check (hb : admitted s.build = true) (hm : s.buf.wf (cap s.build) = true)
    (hf : s.fault.length ≤ 1) (hcheck : s.state = .check) (hv : s.cfgValid = true) (hop : s.region.opOk) : s.Inv := by
  constructor
  case build => exact hb
  case memory => exact hm
  case faults => exact hf
  case running => exact fun _ => ⟨hv, hop⟩
  all_goals simp [hcheck]

theorem exec_request_inv {i : Instr} {q : Request} (hq : encode i = .request q) (h : s.Inv)
    (hx : exec i s = .next t) : t.Inv := by
  obtain ⟨⟨-, hf⟩, ⟨-, ht⟩ | ⟨hidle, ⟨f, ht, -⟩ | ⟨a, -, -, ht⟩ | ⟨a, -, -, ht⟩ | ht | ⟨bytes, ht⟩ |
    ⟨r, hop, hv, ht⟩⟩⟩ := exec_request_cases hq hx <;> rw [ht]
  · exact h.raise hf .busy
  · exact h.raise hf f
  · exact State.inv_of_idle h.build h.memory (length_withFault_nil_le hf .reconfigure) hidle
  · exact State.inv_of_idle h.build h.memory h.faults rfl
  · exact State.inv_of_idle h.build h.memory (length_withFault_nil_le hf .hookRange) hidle
  · exact State.inv_of_idle h.build h.memory h.faults rfl
  · exact State.inv_of_check h.build h.memory h.faults rfl hv hop

/-! ### CHECK and BUFWR -/

/-- In BUFWR the region is valid and its derived registers fixed; the loop registers are still free. -/
theorem State.inv_of_bufwr (hb : admitted s.build = true) (hm : s.buf.wf (cap s.build) = true)
    (hf : s.fault.length ≤ 1) (hbufwr : s.state = .bufwr) (hv : s.cfgValid = true) (hr : s.region.ok s.build) :
    s.Inv := by
  constructor
  case build => exact hb
  case memory => exact hm
  case faults => exact hf
  case running => exact fun _ => ⟨hv, hr.1⟩
  case region => exact fun _ _ => hr
  all_goals simp [hbufwr]

theorem checked_inv (h : s.Inv) (hs : s.state = .check) : s.checked.Inv := by
  obtain ⟨hv, hop⟩ := h.running (by simp [hs])
  obtain ⟨hvalid, hc⟩ | ⟨e, -, hc⟩ := checked_cases s <;> rw [hc]
  · exact State.inv_of_bufwr h.build h.memory h.faults rfl hv ⟨hop, hvalid, rfl⟩
  · exact State.inv_of_idle h.build h.memory h.faults rfl

/-! ### The engine -/

/-- What the invariant asks in every state of the engine, whatever the column and the read pointer. -/
structure State.EngineInv (s : State) : Prop where
  build    : admitted s.build = true
  memory   : s.buf.wf (cap s.build) = true
  faults   : s.fault.length ≤ 1
  cfgValid : s.cfgValid = true
  region   : s.region.ok s.build
  placed   : s.placed
  pages    : s.region.p0 ≤ s.loop.pg ∧ s.loop.pg ≤ s.region.p1

/-- `COL` is inside the region and `RP` is the address of the byte at `PG` and `COL`. -/
abbrev State.AtByte (s : State) : Prop :=
  s.region.rx.toNat ≤ s.loop.col ∧ s.loop.col < s.region.colEnd ∧
    s.loop.rp = addr s.build s.region (regionIndex s.region s.loop.pg s.loop.col)

/-- The column states of the build's framing (42_transfer_engine R170). -/
abbrev SeqState.Framed (b : Build) (q : SeqState) : Prop :=
  (q = .colLo ∨ q = .colHi → b.framing = .separate) ∧ (q = .colBoth → b.framing = .combined)

theorem SeqState.engine.ne_idle_check {q : SeqState} (h : q.engine) : q ≠ .idle ∧ q ≠ .check := by
  obtain rfl | rfl | rfl | rfl | rfl := h <;> decide

theorem SeqState.chunk.engine {q : SeqState} (h : q.chunk) : q.engine := .inr h

theorem SeqState.chunk.ne_page {q : SeqState} (h : q.chunk) : q ≠ .page := by
  obtain rfl | rfl | rfl | rfl := h <;> decide

theorem colSelectState_chunk (b : Build) : (colSelectState b).chunk := by
  unfold colSelectState; split <;> simp [SeqState.chunk]

theorem colSelectState_framed (b : Build) : (colSelectState b).Framed b := by
  cases h : b.framing <;> simp [SeqState.Framed, colSelectState, h]

theorem State.Inv.engineInv (h : s.Inv) (he : s.state.engine) : s.EngineInv := by
  obtain ⟨hidle, hcheck⟩ := SeqState.engine.ne_idle_check he
  obtain ⟨hv, -⟩ := h.running hidle
  exact ⟨h.build, h.memory, h.faults, hv, h.region hidle hcheck, h.placed he, h.pages he⟩

namespace State.EngineInv

theorem facts (h : s.EngineInv) : s.region.Facts s.build := Region.facts h.region

theorem setLoop (h : s.EngineInv) {l : Loop} (hp : s.region.p0 ≤ l.pg ∧ l.pg ≤ s.region.p1) :
    { s with loop := l }.EngineInv :=
  { h with pages := hp }

theorem inv_chunk (h : s.EngineInv) (ha : s.AtByte) {q : SeqState} (hq : q.chunk) (hf : q.Framed s.build) :
    { s with state := q }.Inv where
  build := h.build
  memory := h.memory
  faults := h.faults
  running := fun _ => ⟨h.cfgValid, h.region.1⟩
  region := fun _ _ => h.region
  placed := fun _ => h.placed
  pages := fun _ => h.pages
  pointer := fun hp => absurd hp hq.ne_page
  columns := fun _ => ha
  framing := hf

theorem inv_data (h : s.EngineInv) (ha : s.AtByte) : { s with state := .data }.Inv :=
  h.inv_chunk ha (.inr (.inr (.inr rfl))) (by simp [SeqState.Framed])

theorem inv_page (h : s.EngineInv) (hp : s.build.layout = .linear →
      s.loop.rp = addr s.build s.region (regionIndex s.region s.loop.pg s.region.rx.toNat)) :
    { s with state := .page }.Inv where
  build := h.build
  memory := h.memory
  faults := h.faults
  running := fun _ => ⟨h.cfgValid, h.region.1⟩
  region := fun _ _ => h.region
  placed := fun _ => h.placed
  pages := fun _ => h.pages
  pointer := fun _ => hp
  columns := by simp [SeqState.chunk]
  framing := by simp

theorem inv_finish (h : s.EngineInv) (r : ResultCode) (bytes : List Byte) : (s.finish r bytes).Inv :=
  State.inv_of_idle h.build h.memory h.faults rfl

end State.EngineInv

/-- BUFWR leaves the region's bytes in the buffer and `RP` at the first of them, or stays with its fault recorded. -/
theorem stepBufwr_inv (h : s.Inv) (hs : s.state = .bufwr) (hx : stepBufwr s = .next t) : t.Inv := by
  obtain ⟨hv, -⟩ := h.running (by simp [hs])
  have hr : s.region.ok s.build := h.region (by simp [hs]) (by simp [hs])
  have f := Region.facts hr
  obtain ⟨⟨-, hf⟩, m, hm, ⟨-, ht⟩ | ⟨hlen, ht⟩⟩ := stepBufwr_eq_next.mp hx <;> rw [ht]
  all_goals obtain ⟨hwf, -⟩ := placeBytes_spec hm h.memory
  · exact State.inv_of_bufwr h.build hwf (length_withFault_nil_le hf .dataUnderrun) hs hv hr
  · have hpl : { s with buf := m }.placed := placed_of_placeBytes f h.memory hm hlen
    have he : { s with buf := m, loop := { s.loop with rp := baseAddr s.build s.region, pg := s.region.p0 } }.EngineInv :=
      ⟨h.build, hwf, h.faults, hv, hr, hpl, le_rfl, f.span⟩
    exact he.inv_page fun _ => baseAddr_eq_addr _ _

/-- A transfer keeps the invariant when what follows it does, and follows from the registers alone. -/
theorem send_inv {k : State → State} (he : s.EngineInv) (bytes : List Byte) (kind : XKind)
    (hk : ∀ u, SameRegisters s u → SameRegisters (k s) (k u)) (h : (k s).Inv) : (send s bytes kind k).Inv := by
  have hx : SameRegisters s (s.xfer bytes) := xfer_sameRegisters s bytes
  have hd : SameRegisters s ((s.xfer bytes).emit (s.xferDiag kind bytes.length)) := hx.emit _
  obtain ⟨-, hs⟩ | ⟨-, -, hs⟩ | ⟨-, -, hs⟩ := send_cases s bytes kind k <;> rw [hs]
  · exact h.of_sameRegisters (hk _ hx)
  · exact h.of_sameRegisters (hk _ hd)
  · exact (he.inv_finish .errXfer []).of_sameRegisters { hd with state := rfl }

/-- The page-select puts `COL` and `RP` at the first byte of its page, under both layouts (42_transfer_engine R153). -/
theorem startPage_atByte (h : s.Inv) (hs : s.state = .page) : s.startPage.AtByte := by
  have he := h.engineInv (.inl hs)
  have f := he.facts
  have hcol : s.region.rx.toNat < s.region.colEnd := by have := f.right; have := f.width; omega
  refine ⟨le_rfl, hcol, ?_⟩
  cases hl : s.build.layout with
  | linear => exact (State.startPage_rp_linear s hl).trans (h.pointer hs hl)
  | strided =>
    obtain ⟨hp, -⟩ := he.pages
    rw [State.startPage_rp_strided s hl]
    simpa [addr, hl] using (addrStrided_regionIndex f hp le_rfl hcol).symm

/-- After a chunk the registers are at the next byte of the page, at the start of the next page, or done
(42_transfer_engine R157-R158). -/
theorem nextChunk_inv (h : s.EngineInv) (ha : s.AtByte) : s.setChunk.advance.nextChunk.Inv := by
  have f := h.facts
  have he : s.setChunk.advance.EngineInv := h.setLoop h.pages
  obtain ⟨hlo, hhi, hrp⟩ := ha
  obtain ⟨hp0, -⟩ := h.pages
  have hend := add_chunkLen_le (b := s.build) hhi
  unfold State.nextChunk
  split
  · next hlt =>
    have hnext : s.setChunk.advance.AtByte :=
      ⟨Nat.le_add_right_of_le hlo, hlt, (congrArg (· + _) hrp).trans (addr_add f hlo hlt).symm⟩
    exact he.inv_chunk hnext (colSelectState_chunk _) (colSelectState_framed _)
  · next hge =>
    split
    · next hpg =>
      have hnext : { s.setChunk.advance with
          loop := { s.setChunk.advance.loop with pg := s.loop.pg + 1 } }.EngineInv :=
        he.setLoop ⟨Nat.le_succ_of_le hp0, hpg⟩
      refine hnext.inv_page fun hl => ?_
      have hlast : chunkLen s.build s.region.colEnd s.loop.col = s.region.colEnd - s.loop.col := by
        have : ¬ s.loop.col + chunkLen s.build s.region.colEnd s.loop.col < s.region.colEnd := hge
        omega
      calc s.loop.rp + chunkLen s.build s.region.colEnd s.loop.col
          = addr s.build s.region (regionIndex s.region s.loop.pg s.loop.col) + (s.region.colEnd - s.loop.col) := by
            rw [hrp, hlast]
        _ = addr s.build s.region (regionIndex s.region (s.loop.pg + 1) s.region.rx.toNat) :=
            addr_nextPage f hl hp0 hlo hhi.le
    · exact he.inv_finish .resOk []

theorem exec_transfer_inv {i : Instr} {bytes : List Byte} (hq : encode i = .transfer bytes) (h : s.Inv)
    (hx : exec i s = .next t) : t.Inv := by
  obtain ⟨-, -, ⟨hs, ht⟩ | ⟨hs, ht⟩ | ⟨hs, ht⟩ | ⟨hs, ht⟩ | ⟨hs, -, ht⟩⟩ := exec_transfer_cases hq hx <;> rw [ht]
  all_goals have he : s.EngineInv := h.engineInv (by simp [SeqState.engine, hs])
  case inl =>
    have hp : s.startPage.EngineInv := he.setLoop he.pages
    refine send_inv hp bytes .page (fun u hu => { hu with state := congrArg colSelectState hu.build }) ?_
    exact hp.inv_chunk (startPage_atByte h hs) (colSelectState_chunk _) (colSelectState_framed _)
  all_goals have ha : s.AtByte := h.columns (by simp [SeqState.chunk, hs])
  · refine send_inv he bytes .colLo (fun u hu => { hu with state := rfl }) ?_
    obtain ⟨hsep, -⟩ := h.framing
    exact he.inv_chunk ha (.inr (.inl rfl)) ⟨fun _ => hsep (.inl hs), by simp⟩
  · exact send_inv he bytes .colHi (fun u hu => { hu with state := rfl }) (he.inv_data ha)
  · exact send_inv he bytes .colBoth (fun u hu => { hu with state := rfl }) (he.inv_data ha)
  · have hc : s.setChunk.EngineInv := he.setLoop he.pages
    exact send_inv hc bytes .data (fun u hu => hu.advance.nextChunk) (nextChunk_inv he ha)

/-! ### The step -/

/-- Settles O48: each of the things a step can be keeps the invariant. -/
theorem everyStepKeepsTheInvariant : Obligations.EveryStepKeepsTheInvariant := by
  intro s t h hstep
  obtain ⟨r, u, i, ho, hi, hx⟩ | ⟨r, u, ho, ⟨-, hf⟩, -, ht⟩ | ⟨-, -, -, ht⟩ | ⟨-, hs, -, ht⟩ | ⟨-, hs, hx⟩ |
    ⟨-, -, i, hi, hx⟩ := step_cases hstep
  · obtain ⟨q, hq⟩ := decodeRequest_isRequest hi
    exact exec_request_inv hq (h.of_sameRegisters (offered_sameRegisters ho)) hx
  · exact ht ▸ (h.of_sameRegisters (offered_sameRegisters ho)).raise hf .busy
  · exact ht ▸ h
  · exact ht ▸ checked_inv h hs
  · exact stepBufwr_inv h hs hx
  · obtain ⟨bytes, hq⟩ := dueTransfer_isTransfer hi
    exact exec_transfer_inv hq h hx

end Sys2Proof.Machine
end

section
/-! PROOFS. No address outside the buffer (20_memory R58): only the buffer write and the reading of a chunk could name one,
and the invariant keeps both inside the region. -/
namespace Sys2Proof.Machine

variable {s : State} {k : Result}

/-! ### The guards stop with no such fault of their own -/

theorem live_ne_bufferRange (h : k ≠ .fault .bufferRange) : live s k ≠ .fault .bufferRange := by
  unfold live
  split
  · split
    · exact h
    · simp
  · simp

theorem accept_ne_bufferRange (h : k ≠ .fault .bufferRange) : accept s k ≠ .fault .bufferRange := by
  unfold accept
  refine live_ne_bufferRange ?_
  split
  · simp
  · exact h

theorem acceptRegion_ne_bufferRange (s : State) (r : Region) : acceptRegion s r ≠ .fault .bufferRange := by
  unfold acceptRegion
  refine accept_ne_bufferRange ?_
  split <;> simp

theorem issue_ne_bufferRange (s t : State) (i : Instr) : issue s i t ≠ .fault .bufferRange := by
  unfold issue
  refine live_ne_bufferRange ?_
  split <;> simp

/-! ### Instructions and requests -/

/-- No instruction names an address outside the buffer: READBUF records a fault of the model instead, and DATA runs only
where its bytes have been read. -/
theorem exec_ne_bufferRange (i : Instr) (s : State) : exec i s ≠ .fault .bufferRange := by
  cases i with
  | configure a =>
    refine accept_ne_bufferRange ?_
    split <;> simp
  | readbuf o n =>
    refine accept_ne_bufferRange ?_
    split <;> simp
  | reservedOp r => exact accept_ne_bufferRange (by simp)
  | bitmap x y w h n d => exact acceptRegion_ne_bufferRange s _
  | fill x y w h v => exact acceptRegion_ne_bufferRange s _
  | clear => exact acceptRegion_ne_bufferRange s _
  | pageSelect b p => exact issue_ne_bufferRange s _ _
  | colLo b c => exact issue_ne_bufferRange s _ _
  | colHi b c => exact issue_ne_bufferRange s _ _
  | colSelectCombined l c b d => exact issue_ne_bufferRange s _ _
  | data bytes => exact issue_ne_bufferRange s _ _

theorem present_ne_bufferRange (r : Request) (s : State) : present r s ≠ .fault .bufferRange := by
  unfold present
  split
  · exact exec_ne_bufferRange _ s
  · exact accept_ne_bufferRange (by simp)

/-! ### The two that name addresses -/

theorem stepBufwr_ne_bufferRange (h : s.Inv) (hs : s.state = .bufwr) : stepBufwr s ≠ .fault .bufferRange := by
  have f := Region.facts (h.region (by simp [hs]) (by simp [hs]))
  obtain ⟨m, hm⟩ := Option.isSome_iff_exists.mp (placeBytes_regionBytes_isSome f s.buf)
  unfold stepBufwr
  refine live_ne_bufferRange ?_
  simp only [hm]
  split <;> simp

/-- The chunk at `PG` and `COL` lies inside the buffer: its last byte is one of the region's. -/
theorem State.Inv.chunk_inside (h : s.Inv) (hs : s.state = .data) :
    s.loop.rp + chunkLen s.build s.region.colEnd s.loop.col ≤ cap s.build := by
  have he := h.engineInv (by simp [SeqState.engine, hs])
  have f := he.facts
  obtain ⟨hlo, hhi, hrp⟩ := h.columns (by simp [SeqState.chunk, hs])
  obtain ⟨hp0, hp1⟩ := he.pages
  have hend := add_chunkLen_le (b := s.build) hhi
  obtain ⟨n, hn⟩ := Nat.exists_eq_add_of_le' (one_le_chunkLen h.build hhi)
  rw [hn] at hend ⊢
  have hlast : addr s.build s.region (regionIndex s.region s.loop.pg (s.loop.col + n)) < cap s.build :=
    addr_lt f (regionIndex_lt f hp0 hp1 (by omega) (by omega))
  rw [addr_add f hlo (by omega), ← hrp] at hlast
  omega

/-- In every state of the engine a transfer is due. -/
theorem State.Inv.dueTransfer_isSome (h : s.Inv) (he : s.state.engine) : (dueTransfer s).isSome = true := by
  unfold dueTransfer
  obtain hs | hs | hs | hs | hs := he <;> simp only [hs]
  case inr.inr.inr.inr => simp [State.memRead, h.chunk_inside hs]
  all_goals rfl

theorem sequencerStep_ne_bufferRange (h : s.Inv) : sequencerStep s ≠ .fault .bufferRange := by
  unfold sequencerStep
  split
  case h_1 => exact live_ne_bufferRange (by simp)
  case h_2 => exact live_ne_bufferRange (by simp)
  case h_3 hs => exact stepBufwr_ne_bufferRange h hs
  all_goals
    next hs =>
      obtain ⟨i, hi⟩ := Option.isSome_iff_exists.mp (h.dueTransfer_isSome (by simp [SeqState.engine, hs]))
      simp only [hi]
      exact exec_ne_bufferRange i s

/-- Settles O49: a presented request raises no such fault from any state, and the sequencer none from a state of the
invariant. -/
theorem noStepLeavesTheBuffer : Obligations.NoStepLeavesTheBuffer := by
  intro s h
  unfold step cycle
  split
  · exact present_ne_bufferRange _ _
  · exact sequencerStep_ne_bufferRange h

end Sys2Proof.Machine
end

section
/-! PROOFS. What every transfer looks like (20_memory R61, R63, 30_encoding R87): the write primitive is called with the device
address, the full length and both flags, and the bytes of the transfer that is due fit the transport. -/
namespace Sys2Proof.Machine

variable {s t u : State} {b : Build} {a : BitVec 7}

/-- The bytes of a transfer fit the transport of `b` and start with a marker. -/
structure FitsTransport (b : Build) (bytes : List Byte) : Prop where
  least  : 2 ≤ bytes.length
  most   : bytes.length ≤ b.maxXfer
  marker : bytes.head? = some Config.cmdMarker ∨ bytes.head? = some Config.dataMarker

/-- A transfer event is a call of the write primitive for the device at `a` with bytes that fit; of other events nothing is
asked. -/
def Event.Fits (b : Build) (a : BitVec 7) : Event → Prop
  | .transfer address bytes length wait stop _ =>
    address = a ∧ length = bytes.length ∧ wait = true ∧ stop = true ∧ FitsTransport b bytes
  | .diag _ _     => True
  | .response _ _ => True

/-- From `s` to `t` only events that fit are sent. -/
def SendsFitting (b : Build) (a : BitVec 7) (s t : State) : Prop := ∃ es, t.out = s.out ++ es ∧ ∀ e ∈ es, e.Fits b a

/-! ### Each named operation -/

theorem SendsFitting.of_out_eq (h : t.out = s.out) : SendsFitting b a s t := ⟨[], by simp [h], by simp⟩

theorem SendsFitting.trans (hsu : SendsFitting b a s u) (hut : SendsFitting b a u t) : SendsFitting b a s t := by
  obtain ⟨es, hes, hfit⟩ := hsu
  obtain ⟨es', hes', hfit'⟩ := hut
  refine ⟨es ++ es', by simp [hes', hes], fun e he => ?_⟩
  exact (List.mem_append.mp he).elim (hfit e) (hfit' e)

theorem SendsFitting.emit_diag (s : State) (k : DiagKind) (info : DiagInfo) :
    SendsFitting b a s (s.emit (.diag k info)) :=
  ⟨[.diag k info], rfl, by simp [Event.Fits]⟩

theorem SendsFitting.finish (h : SendsFitting b a s u) (r : ResultCode) (bytes : List Byte) :
    SendsFitting b a s (u.finish r bytes) :=
  h.trans ⟨[.response (resultValue r) bytes], rfl, by simp [Event.Fits]⟩

theorem SendsFitting.xfer {bytes : List Byte} (h : FitsTransport b bytes) :
    SendsFitting b s.cfgDevAddr s (s.xfer bytes) :=
  ⟨_, s.xfer_out bytes, by simp [State.transferEvent, Event.Fits, h]⟩

theorem send_sendsFitting {bytes : List Byte} (h : FitsTransport b bytes) (kind : XKind) {k : State → State}
    (hk : ∀ u, SendsFitting b s.cfgDevAddr u (k u)) : SendsFitting b s.cfgDevAddr s (send s bytes kind k) := by
  have hx : SendsFitting b s.cfgDevAddr s (s.xfer bytes) := .xfer h
  have hd : SendsFitting b s.cfgDevAddr s ((s.xfer bytes).emit (s.xferDiag kind bytes.length)) :=
    hx.trans (.emit_diag _ _ _)
  obtain ⟨-, hs⟩ | ⟨-, -, hs⟩ | ⟨-, -, hs⟩ := send_cases s bytes kind k <;> rw [hs]
  · exact hx.trans (hk _)
  · exact hd.trans (hk _)
  · exact hd.finish .errXfer []

theorem nextChunk_sendsFitting (s : State) : SendsFitting b a s s.nextChunk := by
  unfold State.nextChunk
  split
  · exact SendsFitting.of_out_eq rfl
  · split
    · exact SendsFitting.of_out_eq rfl
    · exact SendsFitting.finish (SendsFitting.of_out_eq rfl) .resOk []

/-! ### Requests and CHECK send no transfer -/

theorem exec_request_sendsFitting {i : Instr} {q : Request} (hq : encode i = .request q) (h : exec i s = .next t) :
    SendsFitting b a s t := by
  obtain ⟨-, ⟨-, ht⟩ | ⟨-, ⟨f, ht, -⟩ | ⟨c, -, -, ht⟩ | ⟨c, -, -, ht⟩ | ht | ⟨bytes, ht⟩ | ⟨r, -, -, ht⟩⟩⟩ :=
    exec_request_cases hq h <;> rw [ht]
  -- the first CONFIGURE and READBUF answer; the others send nothing
  case inr.inr.inr.inl => exact SendsFitting.finish (SendsFitting.of_out_eq rfl) .resOk []
  case inr.inr.inr.inr.inr.inl => exact SendsFitting.finish (SendsFitting.of_out_eq rfl) .resOk bytes
  all_goals exact SendsFitting.of_out_eq rfl

theorem checked_sendsFitting (s : State) : SendsFitting b a s s.checked := by
  obtain ⟨-, h⟩ | ⟨e, -, h⟩ := checked_cases s <;> rw [h]
  · exact SendsFitting.of_out_eq rfl
  · exact (SendsFitting.emit_diag s _ _).finish (geomResult e) []

theorem stepBufwr_sendsFitting (h : stepBufwr s = .next t) : SendsFitting b a s t := by
  obtain ⟨-, m, -, ⟨-, ht⟩ | ⟨-, ht⟩⟩ := stepBufwr_eq_next.mp h <;> rw [ht] <;> exact SendsFitting.of_out_eq rfl

/-! ### The transfer that is due -/

theorem minXfer_combined (h : b.framing = .combined) : minXfer b = 3 := by simp [minXfer, h]

theorem two_le_minXfer (b : Build) : 2 ≤ minXfer b := by
  unfold minXfer; split <;> decide

/-- A command transfer of one byte fits every admitted build (20_memory R63). -/
theorem fitsTransport_command (hb : admitted b = true) (c : Byte) : FitsTransport b [Config.cmdMarker, c] := by
  obtain ⟨-, -, -, -, -, hmin, -⟩ := (admitted_iff b).mp hb
  exact ⟨le_rfl, (two_le_minXfer b).trans hmin, .inl rfl⟩

/-- The combined column-select fits every admitted build of that framing (20_memory R63). -/
theorem fitsTransport_combined (hb : admitted b = true) (hf : b.framing = .combined) (lo hi : Byte) :
    FitsTransport b [Config.cmdMarker, lo, hi] := by
  obtain ⟨-, -, -, -, -, hmin, -⟩ := (admitted_iff b).mp hb
  exact ⟨Nat.le_succ 2, (minXfer_combined hf).ge.trans hmin, .inl rfl⟩

/-- A chunk's bytes and their marker fit the transport (42_transfer_engine R155). -/
theorem fitsTransport_data (hb : admitted b = true) {bytes : List Byte} (h1 : 1 ≤ bytes.length)
    (h2 : bytes.length ≤ b.maxChunk) : FitsTransport b (dataBytes bytes) := by
  obtain ⟨-, -, -, -, hmax, -⟩ := (admitted_iff b).mp hb
  exact ⟨Nat.succ_le_succ h1, hmax ▸ Nat.succ_le_succ h2, .inr rfl⟩

theorem due_fitsTransport (h : s.Inv) {i : Instr} {bytes : List Byte} (hd : dueTransfer s = some i)
    (hq : encode i = .transfer bytes) : FitsTransport s.build bytes := by
  unfold dueTransfer at hd
  cases hs : s.state <;> simp only [hs] at hd
  case page | colLo | colHi => cases hd; cases hq; exact fitsTransport_command h.build _
  case colBoth =>
    cases hd; cases hq
    obtain ⟨-, hcomb⟩ := h.framing
    exact fitsTransport_combined h.build (hcomb hs) _ _
  case data =>
    obtain ⟨l, hl, rfl⟩ := Option.map_eq_some_iff.mp hd
    cases hq
    obtain ⟨-, hhi, -⟩ := h.columns (by simp [SeqState.chunk, hs])
    obtain ⟨-, hl⟩ := State.memRead_eq_some.mp hl
    have hlen : l.length = chunkLen s.build s.region.colEnd s.loop.col := by simp [hl]
    exact fitsTransport_data h.build (hlen ▸ one_le_chunkLen h.build hhi) (hlen ▸ chunkLen_le_maxChunk _ _ _)
  all_goals cases hd

theorem exec_transfer_sendsFitting {i : Instr} {bytes : List Byte} (hq : encode i = .transfer bytes)
    (hfit : FitsTransport b bytes) (h : exec i s = .next t) : SendsFitting b s.cfgDevAddr s t := by
  obtain ⟨l, kind, k, ht, hk⟩ := exec_transfer_eq_send hq h
  have hloop : SendsFitting b s.cfgDevAddr s { s with loop := l } := SendsFitting.of_out_eq rfl
  rw [ht]
  refine hloop.trans (send_sendsFitting hfit kind fun u => ?_)
  obtain ⟨q, rfl⟩ | rfl := hk
  · exact SendsFitting.of_out_eq rfl
  · have hadv : SendsFitting b s.cfgDevAddr u u.advance := SendsFitting.of_out_eq rfl
    exact hadv.trans (nextChunk_sendsFitting u.advance)

/-! ### The step -/

theorem step_sendsFitting (h : s.Inv) (hstep : step s = .next t) : SendsFitting s.build s.cfgDevAddr s t := by
  obtain ⟨r, u, i, ho, hi, hx⟩ | ⟨r, u, ho, -, -, ht⟩ | ⟨-, -, -, ht⟩ | ⟨-, -, -, ht⟩ | ⟨-, -, hx⟩ |
    ⟨-, -, i, hi, hx⟩ := step_cases hstep
  · obtain ⟨q, hq⟩ := decodeRequest_isRequest hi
    exact (SendsFitting.of_out_eq (offered_silent ho).out).trans (exec_request_sendsFitting hq hx)
  · exact ht ▸ (SendsFitting.of_out_eq (offered_silent ho).out).trans (SendsFitting.of_out_eq rfl)
  · exact ht ▸ SendsFitting.of_out_eq rfl
  · exact ht ▸ checked_sendsFitting s
  · exact stepBufwr_sendsFitting hx
  · obtain ⟨bytes, hq⟩ := dueTransfer_isTransfer hi
    exact exec_transfer_sendsFitting hq (due_fitsTransport h hi hq) hx

/-- Settles O43: a step sends nothing but what fits, and the transport's record of a transfer is one of the events it sends. -/
theorem transfersFitTheTransport : Obligations.TransfersFitTheTransport := by
  intro s t h hstep es hout address bytes length wait stop status hmem
  obtain ⟨es', hout', hfit⟩ := step_sendsFitting h hstep
  obtain rfl : es = es' := List.append_cancel_left (hout.symm.trans hout')
  obtain ⟨haddr, hlen, hwait, hstop, hleast, hmost, hmarker⟩ := hfit _ hmem
  exact ⟨haddr, hlen, hwait, hstop, hlen ▸ hleast, hlen ▸ hmost, hmarker⟩

end Sys2Proof.Machine
end

section
/-! PROOFS. Words and bytes as two fields, a high one and a low one: what taking a field of their concatenation gives, and
when a vector is the concatenation of its fields. -/
namespace Sys2Proof

variable {m n : Nat}

theorem setWidth_eq_zero_append (a : BitVec n) : a.setWidth (m + n) = 0#m ++ a := by
  rw [BitVec.setWidth_eq_append (Nat.le_add_left n m)]
  ext i hi
  simp [BitVec.getElem_append]

theorem highField_setWidth (a : BitVec n) : (a.setWidth (m + n)).extractLsb' n m = 0#m := by
  rw [setWidth_eq_zero_append, BitVec.extractLsb'_append_eq_left]

theorem lowField_setWidth (a : BitVec n) : (a.setWidth (m + n)).extractLsb' 0 n = a := by
  rw [setWidth_eq_zero_append, BitVec.extractLsb'_append_eq_right]

/-- A vector whose high field is clear is its low field. -/
theorem setWidth_lowField {v : BitVec (m + n)} (h : v.extractLsb' n m = 0#m) :
    (v.extractLsb' 0 n).setWidth (m + n) = v := by
  rw [setWidth_eq_zero_append, ← h, BitVec.extractLsb'_append_extractLsb']

theorem append_and_highMask (a : BitVec m) (c : BitVec n) :
    (a ++ c) &&& (BitVec.allOnes m ++ 0#n) = a ++ 0#n := by
  rw [BitVec.and_append, BitVec.and_allOnes, BitVec.and_zero]

theorem toNat_append_and_lowMask (a : BitVec m) (c : BitVec n) :
    ((a ++ c) &&& (0#m ++ BitVec.allOnes n)).toNat = c.toNat := by
  rw [BitVec.and_append, BitVec.and_zero, BitVec.and_allOnes, BitVec.toNat_append]
  simp

/-- A vector whose low field is clear is its high field with zeros appended. -/
theorem highField_append_zero {v : BitVec (m + n)} (h : v &&& (0#m ++ BitVec.allOnes n) = 0#(m + n)) :
    v.extractLsb' n m ++ 0#n = v := by
  have hlow : v.extractLsb' 0 n = 0#n := by
    have hv := congrArg (BitVec.extractLsb' 0 n) h
    rwa [BitVec.extractLsb'_and, BitVec.extractLsb'_append_eq_right, BitVec.and_allOnes, BitVec.extractLsb'_zero] at hv
  rw [← hlow, BitVec.extractLsb'_append_extractLsb']

theorem or_setWidth_eq_append {v : BitVec (m + n)} (h : v &&& (0#m ++ BitVec.allOnes n) = 0#(m + n)) (c : BitVec n) :
    v ||| c.setWidth (m + n) = v.extractLsb' n m ++ c := by
  rw [setWidth_eq_zero_append]
  conv_lhs => rw [← highField_append_zero h]
  rw [BitVec.or_append, BitVec.or_zero, BitVec.zero_or]

end Sys2Proof
end

section
/-! PROOFS. The request decoder (30_encoding R80-R86, R94): what it answers, and that it and the encoder undo each other. -/
namespace Sys2Proof

variable {r : Request} {op : BitVec 4} {w0 : Word} {rest : List Word} {i : Instr}

/-! ### What the decoder answers -/

/-- The block decodes one to six words: a set reserved bit of `w0` makes the request illegal, else its `OP` decides. -/
theorem decodeRequest_eq_ok : decodeRequest r = .ok i ↔
    ∃ w0 rest, r.words = w0 :: rest ∧ r.words.length ≤ 6 ∧
      ((w0.extractLsb' 4 28 = 0#28 ∧ decodeOperands r (opField w0) rest = .ok i) ∨
       (w0.extractLsb' 4 28 ≠ 0#28 ∧ i = .reservedOp r)) := by
  obtain ⟨words, d⟩ := r
  unfold decodeRequest
  cases words with
  | nil => simp
  | cons w0 rest =>
    dsimp only
    split
    · next hlong =>
      refine iff_of_false (by simp) ?_
      rintro ⟨-, -, -, hlen, -⟩
      exact Nat.not_le.mpr hlong hlen
    · next hlen =>
      split <;> next h0 => simp_all [eq_comm]

/-- The descriptors that `decodeOperands` reads as illegal: those of a reserved `OP` or with a reserved operand bit set. -/
theorem decodeOperands_reserved (h : opAssigned op = false ∨ (r.data = [] ∧ reservedOperandBits op rest = true)) :
    decodeOperands r op rest = .ok (.reservedOp r) := by
  obtain h | ⟨hd, hbits⟩ := h
  · simp only [opAssigned, Bool.or_eq_false_iff, beq_eq_false_iff_ne] at h
    obtain ⟨⟨⟨⟨h1, h2⟩, h3⟩, h4⟩, h5⟩ := h
    simp [decodeOperands, h1, h2, h3, h4, h5]
  · unfold reservedOperandBits at hbits
    split at hbits
    · obtain ⟨hop, hw⟩ : op = 1#4 ∧ _ := by simpa using hbits
      simp [decodeOperands, hop, hd, hw]
    · obtain ⟨hop, hw⟩ : op = 3#4 ∧ _ := by simpa using hbits
      simp [decodeOperands, hop, hd, hw]
    · cases hbits

/-- Everything `decodeOperands` can answer: the instruction of an assigned `OP`, which has the words that `OP` asks for and,
but for BITMAP, no data; or an illegal request. -/
theorem decodeOperands_cases (h : decodeOperands r op rest = .ok i) :
    (op = 1#4 ∧ r.data = [] ∧ ∃ w1 : Word, rest = [w1] ∧ w1.extractLsb' 7 25 = 0#25 ∧
      i = .configure (w1.extractLsb' 0 7)) ∨
    (op = 2#4 ∧ ∃ x y w h n, rest = [x, y, w, h, n] ∧ i = .bitmap x y w h n r.data) ∨
    (op = 3#4 ∧ r.data = [] ∧ ∃ x y w h, ∃ w5 : Word, rest = [x, y, w, h, w5] ∧ w5.extractLsb' 8 24 = 0#24 ∧
      i = .fill x y w h (w5.extractLsb' 0 8)) ∨
    (op = 4#4 ∧ r.data = [] ∧ rest = [] ∧ i = .clear) ∨
    (op = 5#4 ∧ r.data = [] ∧ ∃ off cnt, rest = [off, cnt] ∧ i = .readbuf off cnt) ∨
    ((opAssigned op = false ∨ (r.data = [] ∧ reservedOperandBits op rest = true)) ∧ i = .reservedOp r) := by
  unfold decodeOperands at h
  split at h
  next hop =>
    split at h
    · split at h <;> next hd hw => cases h; simp [hop, hd, hw, reservedOperandBits]
    · cases h
  split at h
  next hop =>
    split at h
    · cases h; simp [hop]
    · cases h
  split at h
  next hop =>
    split at h
    · split at h <;> next hd hw => cases h; simp [hop, hd, hw, reservedOperandBits]
    · cases h
  split at h
  next hop =>
    split at h
    · next hd => cases h; simp [hop, hd]
    · cases h
  split at h
  next hop =>
    split at h
    · next hd => cases h; simp [hop, hd]
    · cases h
  next h1 h2 h3 h4 h5 => cases h; simp [opAssigned, h1, h2, h3, h4, h5]

/-! ### Decoding an encoding -/

/-- The illegal requests (30_encoding R94), as the decoder tells them. -/
theorem illegal_iff : r.illegal = true ↔
    ∃ w0 rest, r.words = w0 :: rest ∧
      (w0.extractLsb' 4 28 ≠ 0#28 ∨ opAssigned (opField w0) = false ∨
        (r.data = [] ∧ reservedOperandBits (opField w0) rest = true)) := by
  obtain ⟨words, d⟩ := r
  cases words with
  | nil => simp [Request.illegal]
  | cons w0 rest => simp [Request.illegal, or_assoc]

/-- An illegal request of a descriptor's size is kept whole. -/
theorem decodeRequest_illegal (h : r.illegal = true) (hlen : r.words.length ≤ 6) :
    decodeRequest r = .ok (.reservedOp r) := by
  obtain ⟨w0, rest, hw, hbits⟩ := illegal_iff.mp h
  refine decodeRequest_eq_ok.mpr ⟨w0, rest, hw, hlen, ?_⟩
  by_cases h0 : w0.extractLsb' 4 28 = 0#28
  · exact .inl ⟨h0, decodeOperands_reserved (hbits.resolve_left (not_not_intro h0))⟩
  · exact .inr ⟨h0, rfl⟩

/-- A request whose `w0` holds nothing but an operation code is decoded by it. -/
theorem decodeRequest_op (d : List Byte) (hlen : rest.length ≤ 5) :
    decodeRequest ⟨op.setWidth 32 :: rest, d⟩ = decodeOperands ⟨op.setWidth 32 :: rest, d⟩ op rest := by
  have hhigh : (op.setWidth 32).extractLsb' 4 28 = 0#28 := highField_setWidth (m := 28) op
  have hop : opField (op.setWidth 32) = op := lowField_setWidth (m := 28) op
  have hshort : ¬ 6 < (op.setWidth 32 :: rest).length := Nat.not_lt.mpr (Nat.succ_le_succ hlen)
  simp only [decodeRequest]
  rw [if_neg hshort, if_pos hhigh, hop]

theorem decode_encode_configure (a : BitVec 7) :
    decodeRequest ⟨[1#32, a.setWidth 32], []⟩ = .ok (.configure a) := by
  have hhigh : (a.setWidth 32).extractLsb' 7 25 = 0#25 := highField_setWidth (m := 25) a
  have hlow : (a.setWidth 32).extractLsb' 0 7 = a := lowField_setWidth (m := 25) a
  refine (decodeRequest_op (op := 1#4) [] (by simp)).trans ?_
  simp [decodeOperands, hhigh, hlow]

theorem decode_encode_fill (x y w h : Word) (v : Byte) :
    decodeRequest ⟨[3#32, x, y, w, h, v.setWidth 32], []⟩ = .ok (.fill x y w h v) := by
  have hhigh : (v.setWidth 32).extractLsb' 8 24 = 0#24 := highField_setWidth (m := 24) v
  have hlow : (v.setWidth 32).extractLsb' 0 8 = v := lowField_setWidth (m := 24) v
  refine (decodeRequest_op (op := 3#4) [] (by simp)).trans ?_
  simp [decodeOperands, hhigh, hlow]

/-- Settles O55: the decoder finds the operation code in `w0` and every operand in its field; an illegal request it keeps. -/
theorem requestsDecodeToThemselves : Obligations.RequestsDecodeToThemselves := by
  intro i r hwf hr
  cases i <;> cases hr
  case configure a => exact decode_encode_configure a
  case bitmap x y w h n d => exact decodeRequest_op (op := 2#4) d (by simp)
  case fill x y w h v => exact decode_encode_fill x y w h v
  case clear => exact decodeRequest_op (op := 4#4) [] (by simp)
  case readbuf off cnt => exact decodeRequest_op (op := 5#4) [] (by simp)
  case reservedOp =>
    obtain ⟨hill, hlen⟩ : r.illegal = true ∧ r.words.length ≤ 6 := by simpa [Instr.wellFormed] using hwf
    exact decodeRequest_illegal hill hlen

/-! ### Encoding what was decoded -/

/-- A `w0` with clear reserved bits is its operation code. -/
theorem eq_setWidth_opField (h : w0.extractLsb' 4 28 = 0#28) : w0 = (opField w0).setWidth 32 :=
  (setWidth_lowField (m := 28) h).symm

theorem wellFormed_reservedOp (hill : r.illegal = true) (hlen : r.words.length ≤ 6) :
    (Instr.reservedOp r).wellFormed = true := by
  simp [Instr.wellFormed, hill, hlen]

/-- Settles O56: an assigned operation code and clear reserved bits leave nothing of the words but the operands; any other
request that decodes is kept whole. -/
theorem decodedRequestsEncodeBack : Obligations.DecodedRequestsEncodeBack := by
  intro r i h
  obtain ⟨w0, rest, hw, hlen, ⟨h0, hops⟩ | ⟨h0, rfl⟩⟩ := decodeRequest_eq_ok.mp h
  · obtain ⟨words, d⟩ := r
    obtain rfl : words = w0 :: rest := hw
    have hw0 : w0 = (opField w0).setWidth 32 := eq_setWidth_opField h0
    obtain ⟨hop, hd, w1, rfl, hbits, rfl⟩ | ⟨hop, x, y, w, hh, n, rfl, rfl⟩ | ⟨hop, hd, x, y, w, hh, w5, rfl, hbits, rfl⟩ |
      ⟨hop, hd, rfl, rfl⟩ | ⟨hop, hd, off, cnt, rfl, rfl⟩ | ⟨hres, rfl⟩ := decodeOperands_cases hops
    case inr.inr.inr.inr.inr =>
      exact ⟨wellFormed_reservedOp (illegal_iff.mpr ⟨w0, rest, rfl, .inr hres⟩) hlen, rfl⟩
    all_goals rw [hop] at hw0
    · exact ⟨rfl, by simp_all [encode, setWidth_lowField (m := 25) hbits]⟩
    · exact ⟨rfl, by simp [encode, hw0]⟩
    · exact ⟨rfl, by simp_all [encode, setWidth_lowField (m := 24) hbits]⟩
    · exact ⟨rfl, by simp_all [encode]⟩
    · exact ⟨rfl, by simp_all [encode]⟩
  · exact ⟨wellFormed_reservedOp (illegal_iff.mpr ⟨w0, rest, hw, .inl h0⟩) hlen, rfl⟩

end Sys2Proof
end

section
/-! PROOFS. Transfers (30_encoding R87-R92, R95): the command bytes of an admitted build keep its bases and their operands in
separate fields, so a bus reader who knows the position reads both back. -/
namespace Sys2Proof
open Sys2Proof.Machine

variable {b : Build}

/-! ### Command bytes -/

theorem matchesPage_pageField (h : b.pageBase &&& 0x07#8 = 0#8) (p : BitVec 3) :
    matchesPage b (pageField b ++ p) = true := by
  have hbase : pageField b ++ 0#3 = b.pageBase := highField_append_zero (m := 5) h
  exact beq_iff_eq.mpr ((append_and_highMask (m := 5) _ p).trans hbase)

theorem matchesColLo_colLoField (h : b.colLoBase &&& 0x0F#8 = 0#8) (c : BitVec 4) :
    matchesColLo b (colLoField b ++ c) = true := by
  have hbase : colLoField b ++ 0#4 = b.colLoBase := highField_append_zero (m := 4) h
  exact beq_iff_eq.mpr ((append_and_highMask (m := 4) _ c).trans hbase)

theorem matchesColHi_colHiField (h : b.colHiBase &&& 0x07#8 = 0#8) (c : BitVec 3) :
    matchesColHi b (colHiField b ++ c) = true := by
  have hbase : colHiField b ++ 0#3 = b.colHiBase := highField_append_zero (m := 5) h
  exact beq_iff_eq.mpr ((append_and_highMask (m := 5) _ c).trans hbase)

theorem pageOfByte_append (base : BitVec 5) (p : BitVec 3) : pageOfByte (base ++ p) = .pageSelect base p :=
  congrArg₂ Instr.pageSelect BitVec.extractLsb'_append_eq_left BitVec.extractLsb'_append_eq_right

theorem colLoOfByte_append (base c : BitVec 4) : colLoOfByte (base ++ c) = .colLo base c :=
  congrArg₂ Instr.colLo BitVec.extractLsb'_append_eq_left BitVec.extractLsb'_append_eq_right

theorem colHiOfByte_append (base : BitVec 5) (c : BitVec 3) : colHiOfByte (base ++ c) = .colHi base c :=
  congrArg₂ Instr.colHi BitVec.extractLsb'_append_eq_left BitVec.extractLsb'_append_eq_right

/-! ### The bus reader: a base that matches at its own position decides, whichever others match too -/

theorem decodeCommand_page {c : Byte} (h : matchesPage b c = true) : decodeCommand b .page c = .ok (pageOfByte c) := by
  unfold decodeCommand
  cases hlo : matchesColLo b c <;> cases hhi : matchesColHi b c <;> simp [h]

theorem decodeCommand_colLo {c : Byte} (h : matchesColLo b c = true) :
    decodeCommand b .colLo c = .ok (colLoOfByte c) := by
  unfold decodeCommand
  cases hpg : matchesPage b c <;> cases hhi : matchesColHi b c <;> simp [h]

theorem decodeCommand_colHi {c : Byte} (h : matchesColHi b c = true) :
    decodeCommand b .colHi c = .ok (colHiOfByte c) := by
  unfold decodeCommand
  cases hpg : matchesPage b c <;> cases hlo : matchesColLo b c <;> simp [h]

theorem decodeTransfer_command (b : Build) (pos : XKind) (c : Byte) :
    decodeTransfer b pos [Config.cmdMarker, c] = decodeCommand b pos c := rfl

/-- A command of two bytes is told by its length, at any position (30_encoding R97). -/
theorem decodeTransfer_combined {lb c : BitVec 4} {hb : BitVec 5} {d : BitVec 3} (pos : XKind)
    (hlo : matchesColLo b (lb ++ c) = true) (hhi : matchesColHi b (hb ++ d) = true) :
    decodeTransfer b pos (colBothBytes lb c hb d) = .ok (.colSelectCombined lb c hb d) := by
  refine (if_pos ⟨hlo, hhi⟩ : decodeTransfer b pos (colBothBytes lb c hb d) = _).trans ?_
  rw [Except.ok.injEq, Instr.colSelectCombined.injEq]
  exact ⟨BitVec.extractLsb'_append_eq_left, BitVec.extractLsb'_append_eq_right,
    BitVec.extractLsb'_append_eq_left, BitVec.extractLsb'_append_eq_right⟩

theorem decodeTransfer_data (b : Build) (pos : XKind) {bytes : List Byte} (h : bytes ≠ []) :
    decodeTransfer b pos (dataBytes bytes) = .ok (.data bytes) := by
  simp [decodeTransfer, dataBytes, h]

/-- Settles O57: each command byte of an admitted build matches its base, which at its own position decides the kind. -/
theorem transfersDecodeToThemselves : Obligations.TransfersDecodeToThemselves := by
  intro b hb
  obtain ⟨-, -, -, -, -, -, hpage, hlo, hhi⟩ := (admitted_iff b).mp hb
  refine ⟨fun p => ?_, fun c => ?_, fun c => ?_, fun c d => ?_, fun bytes hne => ?_⟩
  · calc decodeTransfer b .page [Config.cmdMarker, pageField b ++ p]
        = decodeCommand b .page (pageField b ++ p) := decodeTransfer_command b .page _
      _ = .ok (pageOfByte (pageField b ++ p)) := decodeCommand_page (matchesPage_pageField hpage p)
      _ = .ok (.pageSelect (pageField b) p) := by rw [pageOfByte_append]
  · calc decodeTransfer b .colLo [Config.cmdMarker, colLoField b ++ c]
        = decodeCommand b .colLo (colLoField b ++ c) := decodeTransfer_command b .colLo _
      _ = .ok (colLoOfByte (colLoField b ++ c)) := decodeCommand_colLo (matchesColLo_colLoField hlo c)
      _ = .ok (.colLo (colLoField b) c) := by rw [colLoOfByte_append]
  · calc decodeTransfer b .colHi [Config.cmdMarker, colHiField b ++ c]
        = decodeCommand b .colHi (colHiField b ++ c) := decodeTransfer_command b .colHi _
      _ = .ok (colHiOfByte (colHiField b ++ c)) := decodeCommand_colHi (matchesColHi_colHiField hhi c)
      _ = .ok (.colHi (colHiField b) c) := by rw [colHiOfByte_append]
  · exact decodeTransfer_combined .colBoth (matchesColLo_colLoField hlo c) (matchesColHi_colHiField hhi d)
  · exact decodeTransfer_data b .data hne

/-! ### The column -/

theorem colLoCmd_eq_append (h : b.colLoBase &&& 0x0F#8 = 0#8) (c : Nat) :
    colLoCmd b c = colLoField b ++ colLow c := or_setWidth_eq_append (m := 4) h (colLow c)

theorem colHiCmd_eq_append (h : b.colHiBase &&& 0x07#8 = 0#8) (c : Nat) :
    colHiCmd b c = colHiField b ++ colHigh c := or_setWidth_eq_append (m := 5) h (colHigh c)

theorem colHigh_append_colLow (c : Nat) : colHigh c ++ colLow c = BitVec.ofNat 7 c :=
  BitVec.extractLsb'_append_extractLsb'

/-- The column a bus reader recovers is made of the low fields of the two command bytes. -/
theorem columnOfBytes_append (x lo : BitVec 4) (y : BitVec 5) (hi : BitVec 3) :
    columnOfBytes (x ++ lo) (y ++ hi) = (hi ++ lo).toNat := by
  have hlo : ((x ++ lo) &&& 0x0F#8).toNat = lo.toNat := toNat_append_and_lowMask x lo
  have hhi : ((y ++ hi) &&& 0x07#8).toNat = hi.toNat := toNat_append_and_lowMask y hi
  rw [columnOfBytes, hlo, hhi, BitVec.toNat_append]

/-- Settles O39: the two low fields are the column's own bits, and a column of an admitted build has seven. -/
theorem columnIsRecoveredFromItsBytes : Obligations.ColumnIsRecoveredFromItsBytes := by
  intro b c hb hc
  obtain ⟨hcols, -, -, -, -, -, -, hlo, hhi⟩ := (admitted_iff b).mp hb
  have hc7 : c < 2 ^ 7 := by omega
  calc columnOfBytes (colLoCmd b c) (colHiCmd b c)
      = (colHigh c ++ colLow c).toNat := by
        rw [colLoCmd_eq_append hlo, colHiCmd_eq_append hhi, columnOfBytes_append]
    _ = (BitVec.ofNat 7 c).toNat := by rw [colHigh_append_colLow]
    _ = c := by rw [BitVec.toNat_ofNat, Nat.mod_eq_of_lt hc7]

/-- Settles O58: the decoder is run on each of the nine. -/
theorem wordsFromTheSpecDecode : Obligations.WordsFromTheSpecDecode := by
  unfold Obligations.WordsFromTheSpecDecode
  decide

end Sys2Proof
end

section
/-! PROOFS. The presented request (30_encoding R80, 43_region_ops R190, R202): a step decodes it and runs its instruction; a
request of no shape, and an illegal one, on an idle block. -/
namespace Sys2Proof.Machine

variable {s u : State} {r : Request} {i : Instr}

theorem offered_of_port (h : s.port = some r) : s.offered = some (r, { s with port := none }) := by
  simp [State.offered, h]

theorem offered_of_queue {rest : List Request} (hp : s.port = none) (hs : s.state = .idle) (hq : s.queue = r :: rest) :
    s.offered = some (r, { s with queue := rest }) := by
  simp [State.offered, hp, hs, hq]

theorem step_of_offered (h : s.offered = some (r, u)) : step s = present r u := by
  simp [step, cycle, h]

theorem present_of_decodes (h : decodeRequest r = .ok i) : present r u = exec i u := by
  simp [present, h]

theorem present_of_error {e : DecodeError} (h : decodeRequest r = .error e) : present r u = acceptMalformed u := by
  simp [present, h]

/-- Settles O6: the request is offered to the step from the port, or from the host's line when the block is idle. -/
theorem stepRunsThePresentedRequest : Obligations.StepRunsThePresentedRequest := by
  intro s r i hi
  refine ⟨fun hp => ?_, fun hp hs rest hq => ?_⟩
  · rw [step_of_offered (offered_of_port hp), present_of_decodes hi]
  · rw [step_of_offered (offered_of_queue hp hs hq), present_of_decodes hi]

/-- Settles O8: a ready block accepts, and what it would accept is the refusal. -/
theorem malformedRequestIsRefused : Obligations.MalformedRequestIsRefused := by
  intro s r e hs hp he
  have hready : { s with port := none }.ready := hs
  rw [step_of_offered (offered_of_port hp), present_of_error he]
  exact accept_of_ready hready _

theorem raise_of_no_fault (h : s.fault = []) (f : ModelFault) : s.raise f = { s with fault := [f] } := by
  simp [State.raise, withFault, h]

/-- Settles O14: a ready block accepts, and the fault is the first recorded. -/
theorem reservedOpRecordsItsFault : Obligations.ReservedOpRecordsItsFault := by
  intro s r hs
  have hf : s.fault = [] := hs.2.1
  calc exec (.reservedOp r) s = .next (s.raise .illegalReq) := accept_of_ready hs _
    _ = .next { s with fault := [.illegalReq] } := by rw [raise_of_no_fault hf]

end Sys2Proof.Machine
end

section
/-! PROOFS. CLEAR and FILL (30_encoding R100): once a request that is no BITMAP is accepted, nothing reads its operation code,
so a step of a block with nothing presented commutes with writing another one. -/
namespace Sys2Proof.Machine

variable {s t u : State} {op : BitVec 4} {i : Instr}

/-- `s` with the operation code `op` and nothing presented. -/
def State.quietAs (s : State) (op : BitVec 4) : State :=
  { s with region := { s.region with op := op }, port := none, queue := [] }

theorem quietAs_of_quiet (h : s.quiet) (op : BitVec 4) :
    s.quietAs op = { s with region := { s.region with op := op } } := by
  obtain ⟨hp, hq⟩ := h
  simp [State.quietAs, hp, hq]

theorem quietAs_self (h : s.quiet) : s.quietAs s.region.op = s := quietAs_of_quiet h _

theorem quietAs_quiet (s : State) (op : BitVec 4) : (s.quietAs op).quiet := ⟨rfl, rfl⟩

/-! ### Where the operation code is read -/

theorem validateRegion_op {b : Build} {r : Region} (h : r.op ≠ opBitmap) (h' : op ≠ opBitmap) :
    validateRegion b { r with op := op } = validateRegion b r := by
  simp [validateRegion, validate, lenOk, h, h']

theorem regionBytes_op {r : Region} (h : r.op ≠ opBitmap) (h' : op ≠ opBitmap) :
    regionBytes { r with op := op } = regionBytes r := by
  simp [regionBytes, h, h']

theorem placeBytes_op (b : Build) (r : Region) (op : BitVec 4) (vs : List Byte) (n : Nat) (m : Memory) :
    placeBytes b { r with op := op } vs n m = placeBytes b r vs n m := by
  induction vs generalizing n m with
  | nil => rfl
  | cons v vs ih =>
    have haddr : addr b { r with op := op } n = addr b r n := rfl
    simp [placeBytes, haddr, ih]

/-! ### The sequencer's steps -/

theorem checked_quietAs (h : s.region.op ≠ opBitmap) (h' : op ≠ opBitmap) :
    (s.quietAs op).checked = s.checked.quietAs op := by
  have hv : validateRegion (s.quietAs op).build (s.quietAs op).region = validateRegion s.build s.region :=
    validateRegion_op h h'
  unfold State.checked
  rw [hv]
  split <;> rfl

theorem stepBufwr_quietAs (h : s.region.op ≠ opBitmap) (h' : op ≠ opBitmap) (hstep : stepBufwr s = .next t) :
    stepBufwr (s.quietAs op) = .next (t.quietAs op) := by
  have hbytes : regionBytes (s.quietAs op).region = regionBytes s.region := regionBytes_op h h'
  obtain ⟨hruns, m, hm, ht⟩ := stepBufwr_eq_next.mp hstep
  refine stepBufwr_eq_next.mpr ⟨hruns, m, ?_, ?_⟩
  · rw [hbytes]
    exact (placeBytes_op _ _ _ _ _ _).trans hm
  · rw [hbytes]
    exact ht.imp (fun ⟨hlen, ht⟩ => ⟨hlen, ht ▸ rfl⟩) (fun ⟨hlen, ht⟩ => ⟨hlen, ht ▸ rfl⟩)

theorem takeAnswer_quietAs (s : State) (op : BitVec 4) : (s.quietAs op).takeAnswer = s.takeAnswer.quietAs op := by
  have hanswers : (s.quietAs op).answers = s.answers := rfl
  unfold State.takeAnswer
  rw [hanswers]
  cases s.answers <;> rfl

theorem xfer_quietAs (s : State) (op : BitVec 4) (bytes : List Byte) :
    (s.quietAs op).xfer bytes = (s.xfer bytes).quietAs op := by
  unfold State.xfer
  rw [takeAnswer_quietAs]
  rfl

theorem afterXfer_quietAs (s : State) (op : BitVec 4) (kind : XKind) (n : Nat) {k : State → State}
    (hk : ∀ u, k (u.quietAs op) = (k u).quietAs op) :
    afterXfer (s.quietAs op) kind n k = (afterXfer s kind n k).quietAs op := by
  simp only [afterXfer, apply_ite (fun u : State => u.quietAs op), ← hk]
  rfl

theorem send_quietAs (s : State) (op : BitVec 4) (bytes : List Byte) (kind : XKind) {k : State → State}
    (hk : ∀ u, k (u.quietAs op) = (k u).quietAs op) :
    send (s.quietAs op) bytes kind k = (send s bytes kind k).quietAs op := by
  unfold send
  rw [xfer_quietAs, afterXfer_quietAs _ op kind _ hk]

theorem nextChunk_quietAs (s : State) (op : BitVec 4) : (s.quietAs op).nextChunk = s.nextChunk.quietAs op := by
  simp only [State.nextChunk, apply_ite (fun u : State => u.quietAs op)]
  rfl

theorem issue_quietAs {u' : State} (hu : u' = u.quietAs op) (h : issue s i u = .next t) :
    issue (s.quietAs op) i u' = .next (t.quietAs op) := by
  obtain ⟨hruns, hdue, rfl⟩ := issue_eq_next.mp h
  exact issue_eq_next.mpr ⟨hruns, hdue, hu.symm⟩

theorem exec_transfer_quietAs {bytes : List Byte} (hq : encode i = .transfer bytes) (h : exec i s = .next t) :
    exec i (s.quietAs op) = .next (t.quietAs op) := by
  cases i with
  | pageSelect b p => exact issue_quietAs (send_quietAs s.startPage op _ _ fun _ => rfl) h
  | colLo b c => exact issue_quietAs (send_quietAs s op _ _ fun _ => rfl) h
  | colHi b c => exact issue_quietAs (send_quietAs s op _ _ fun _ => rfl) h
  | colSelectCombined lb c hb d => exact issue_quietAs (send_quietAs s op _ _ fun _ => rfl) h
  | data bytes => exact issue_quietAs (send_quietAs s.setChunk op _ _ fun u => nextChunk_quietAs u.advance op) h
  | _ => cases hq

/-! ### The step -/

theorem step_of_quiet (h : s.quiet) : step s = sequencerStep s := by
  simp [step, cycle, offered_quiet h]

theorem sequencerStep_idle (h : s.state = .idle) : sequencerStep s = stepIdle s := by simp [sequencerStep, h]

theorem sequencerStep_check (h : s.state = .check) : sequencerStep s = stepCheck s := by simp [sequencerStep, h]

theorem sequencerStep_bufwr (h : s.state = .bufwr) : sequencerStep s = stepBufwr s := by simp [sequencerStep, h]

theorem sequencerStep_engine (h : s.state.engine) (hi : dueTransfer s = some i) : sequencerStep s = exec i s := by
  obtain hs | hs | hs | hs | hs := h <;> simp [sequencerStep, hs, hi]

theorem step_quietAs (hq : s.quiet) (h : s.region.op ≠ opBitmap) (h' : op ≠ opBitmap) (hstep : step s = .next t) :
    step (s.quietAs op) = .next (t.quietAs op) := by
  rw [step_of_quiet (quietAs_quiet s op)]
  obtain ⟨r, u, i, ho, -, -⟩ | ⟨r, u, ho, -, -, -⟩ | ⟨-, hs, hruns, rfl⟩ | ⟨-, hs, hruns, rfl⟩ | ⟨-, hs, hx⟩ |
    ⟨-, he, i, hi, hx⟩ := step_cases hstep
  · simp [offered_quiet hq] at ho
  · simp [offered_quiet hq] at ho
  · exact (sequencerStep_idle (s := t.quietAs op) hs).trans (stepIdle_eq_next.mpr ⟨hruns, rfl⟩)
  · rw [sequencerStep_check (s := s.quietAs op) hs, ← checked_quietAs h h']
    exact stepCheck_eq_next.mpr ⟨hruns, rfl⟩
  · exact (sequencerStep_bufwr (s := s.quietAs op) hs).trans (stepBufwr_quietAs h h' hx)
  · obtain ⟨bytes, henc⟩ := dueTransfer_isTransfer hi
    exact (sequencerStep_engine (s := s.quietAs op) he hi).trans (exec_transfer_quietAs henc hx)

/-- A step keeps the operation code and presents nothing. -/
theorem step_eq_quietAs (hq : s.quiet) (h : s.region.op ≠ opBitmap) (hstep : step s = .next t) :
    t = t.quietAs s.region.op := by
  have hself := step_quietAs hq h h hstep
  rw [quietAs_self hq, hstep] at hself
  exact Host.Outcome.next.inj hself

/-! ### The run -/

theorem coreRun_succ_eq_next {M : Host.Core} {k : Nat} {s t : M.State} :
    M.run (k + 1) s = .next t ↔ ∃ u, M.step s = .next u ∧ M.run k u = .next t := by
  rw [Host.Core.run]
  cases M.step s <;> simp

theorem run_succ_eq_next {k : Nat} :
    Host.Core.run core (k + 1) s = .next t ↔ ∃ u : State, step s = .next u ∧ Host.Core.run core k u = .next t :=
  coreRun_succ_eq_next (M := core)

/-- A run with nothing more presented goes alike under every operation code but BITMAP's. -/
theorem run_quietAs (k : Nat) (hq : s.quiet) (h : s.region.op ≠ opBitmap) (h' : op ≠ opBitmap)
    (hrun : Host.Core.run core k s = .next t) : Host.Core.run core k (s.quietAs op) = .next (t.quietAs op) := by
  induction k generalizing s with
  | zero => cases hrun; rfl
  | succ k ih =>
    obtain ⟨u, hstep, hrun⟩ := run_succ_eq_next.mp hrun
    have hu : u = u.quietAs s.region.op := step_eq_quietAs hq h hstep
    have hqu : u.quiet := hu ▸ quietAs_quiet u _
    have hop : u.region.op ≠ opBitmap := hu ▸ h
    exact run_succ_eq_next.mpr ⟨_, step_quietAs hq h h' hstep, ih hqu hop hrun⟩

/-- A run presents nothing of its own. -/
theorem run_quiet (k : Nat) (hq : s.quiet) (h : s.region.op ≠ opBitmap)
    (hrun : Host.Core.run core k s = .next t) : t.quiet := by
  have hself := run_quietAs k hq h h hrun
  rw [quietAs_self hq, hrun] at hself
  have ht : t = t.quietAs s.region.op := Host.Outcome.next.inj hself
  exact ht ▸ quietAs_quiet t _

/-! ### Acceptance -/

theorem acceptRegion_of_ready (h : s.ready) (hc : s.cfgValid = true) (r : Region) :
    acceptRegion s r = .next (s.acceptedAs r) := by
  unfold acceptRegion
  rw [accept_of_ready h, if_pos hc]
  rfl

/-- Settles O18: FILL is accepted in CLEAR's state but for the operation code, and the two runs stay so. -/
theorem clearRunsAsFillOfTheSurface : Obligations.ClearRunsAsFillOfTheSurface := by
  intro s t u k hready hquiet ht hu hcfg t' hrun
  have ht := Host.Outcome.next.inj ((acceptRegion_of_ready hready hcfg _).symm.trans ht)
  have hu := Host.Outcome.next.inj ((acceptRegion_of_ready hready hcfg _).symm.trans hu)
  have hqt : t.quiet := ht ▸ hquiet
  have hop : t.region.op ≠ opBitmap := ht ▸ (by decide : opClear ≠ opBitmap)
  have hut : t.quietAs opFill = u := by rw [quietAs_of_quiet hqt, ← ht, ← hu]; rfl
  have hfill := run_quietAs k hqt hop (by decide : opFill ≠ opBitmap) hrun
  rwa [hut, quietAs_of_quiet (run_quiet k hqt hop hrun)] at hfill

end Sys2Proof.Machine
end

section
/-! PROOFS. The validator (40_validator R110-R121): the first failing check gives its result, a region that passes the row and
column checks fits the buffer, and what the state CHECK makes of the result. -/
namespace Sys2Proof.Machine

variable {s : State} {b : Build} {op : BitVec 4} {x y w h : Int} {n : Nat}

/-! ### The order of the checks -/

theorem validate_of_not_rowOk (hr : ¬ rowOk b y h = true) : validate b op x y w h n = some .row := if_pos hr

theorem validate_of_not_colOk (hr : rowOk b y h = true) (hc : ¬ colOk b x w = true) :
    validate b op x y w h n = some .col := by
  simp [validate, hr, hc]

theorem validate_of_not_lenOk (hr : rowOk b y h = true) (hc : colOk b x w = true) (hl : ¬ lenOk op w h n = true) :
    validate b op x y w h n = some .len := by
  simp [validate, hr, hc, hl]

theorem validate_of_lenOk (hr : rowOk b y h = true) (hc : colOk b x w = true) (hl : lenOk op w h n = true) :
    validate b op x y w h n = if capOk b w h = true then none else some .oversize := by
  simp only [validate, hr, hc, hl, not_true_eq_false, if_false, ite_not]

/-- Settles O22: each check is the condition the rules write out, and the validator tries them in this order. -/
theorem firstFailingCheckIsReported : Obligations.FirstFailingCheckIsReported := by
  intro b op x y w h n
  simp only [← rowOk_iff, ← colOk_iff, ← lenOk_iff, ← capOk_iff]
  exact ⟨validate_of_not_rowOk, validate_of_not_colOk, validate_of_not_lenOk, validate_of_lenOk⟩

/-! ### The capacity -/

theorem pages_le_of_rowOk (hr : rowOk b y h = true) : h / 8 ≤ b.pages := by
  obtain ⟨hy, -, hsum, -, -⟩ := (rowOk_iff b y h).mp hr
  omega

theorem width_le_of_colOk (hc : colOk b x w = true) : w ≤ b.cols := by
  obtain ⟨hx, -, hsum⟩ := (colOk_iff b x w).mp hc
  omega

theorem capOk_of_rowOk_colOk (hr : rowOk b y h = true) (hc : colOk b x w = true) : capOk b w h = true := by
  obtain ⟨-, hw, -⟩ := (colOk_iff b x w).mp hc
  refine (capOk_iff b w h).mpr ?_
  calc h / 8 * w ≤ b.pages * b.cols :=
        mul_le_mul (pages_le_of_rowOk hr) (width_le_of_colOk hc) hw.le (Int.natCast_nonneg _)
    _ = (b.pages * b.cols : Nat) := (Nat.cast_mul _ _).symm

theorem validate_ne_oversize : validate b op x y w h n ≠ some .oversize := by
  by_cases hr : rowOk b y h = true
  · by_cases hc : colOk b x w = true
    · by_cases hl : lenOk op w h n = true
      · simp [validate_of_lenOk hr hc hl, capOk_of_rowOk_colOk hr hc]
      · simp [validate_of_not_lenOk hr hc hl]
    · simp [validate_of_not_colOk hr hc]
  · simp [validate_of_not_rowOk hr]

/-- Settles O23: a region inside the surface has at most its pages and its columns. -/
theorem capacityCheckNeverFires : Obligations.CapacityCheckNeverFires := fun b _ _ _ w h _ =>
  ⟨fun hr hc => ⟨pages_le_of_rowOk hr, width_le_of_colOk hc, (capOk_iff b w h).mp (capOk_of_rowOk_colOk hr hc)⟩,
    validate_ne_oversize⟩

/-! ### The valid regions -/

/-- The rows that pass the row check are whole pages of the surface. -/
theorem rowOk_iff_exists_pages : rowOk b y h = true ↔
    ∃ p k : Nat, y = 8 * p ∧ h = 8 * k ∧ 1 ≤ k ∧ p + k ≤ b.pages := by
  rw [rowOk_iff]
  constructor
  · rintro ⟨hy, hh, hsum, hymod, hhmod⟩
    exact ⟨(y / 8).toNat, (h / 8).toNat, by omega, by omega, by omega, by omega⟩
  · rintro ⟨p, k, rfl, rfl, hk, hpk⟩
    omega

theorem lenOk_pages_iff (k : Nat) : lenOk op w (8 * k) n = true ↔ (op = 2#4 → (n : Int) = k * w) := by
  rw [lenOk_iff, Int.mul_ediv_cancel_left _ (by decide)]

/-- Settles O21: the capacity check follows from the row and column checks, which say the rectangle is whole pages inside
the surface. -/
theorem validRegionsArePageRectangles : Obligations.ValidRegionsArePageRectangles := by
  intro b op x y w h n _
  rw [validate_eq_none]
  constructor
  · rintro ⟨hr, hc, hl, -⟩
    obtain ⟨hx, hw, hsum⟩ := (colOk_iff b x w).mp hc
    obtain ⟨p, k, rfl, rfl, hk, hpk⟩ := rowOk_iff_exists_pages.mp hr
    exact ⟨hx, hw, hsum, p, k, rfl, rfl, hk, hpk, (lenOk_pages_iff k).mp hl⟩
  · rintro ⟨hx, hw, hsum, p, k, rfl, rfl, hk, hpk, hl⟩
    have hc := (colOk_iff b x w).mpr ⟨hx, hw, hsum⟩
    have hr := rowOk_iff_exists_pages.mpr ⟨p, k, rfl, rfl, hk, hpk⟩
    exact ⟨hr, hc, (lenOk_pages_iff k).mpr hl, capOk_of_rowOk_colOk hr hc⟩

/-! ### The state CHECK -/

theorem step_of_check (hrun : s.runs) (hp : s.port = none) (hs : s.state = .check) : step s = .next s.checked := by
  have hoff : s.offered = none := offered_port_none hp (by simp [hs])
  calc step s = sequencerStep s := by simp [step, cycle, hoff]
    _ = stepCheck s := sequencerStep_check hs
    _ = .next s.checked := stepCheck_eq_next.mpr ⟨hrun, rfl⟩

theorem checked_of_valid (hv : validateRegion s.build s.region = none) :
    s.checked = { s with region := fixRegion s.region, state := .bufwr } := by
  simp [State.checked, hv]

theorem checked_of_invalid {e : GeomError} (hv : validateRegion s.build s.region = some e) :
    s.checked = (s.emit (geomEvent e s.region)).finish (geomResult e) [] := by
  simp [State.checked, hv]

/-- Settles O24: the state after the check is the event sent and the request finished, whichever check failed. -/
theorem failedCheckOnlyReports : Obligations.FailedCheckOnlyReports := by
  intro s e hrun hp hs hv
  rw [step_of_check hrun hp hs, checked_of_invalid hv]
  cases e <;> simp [State.emit, State.finish, geomEvent, geomDiag, geomResult, resultValue]

/-- The derived registers of a valid region, exactly: no operand and no difference is negative. -/
theorem fixRegion_of_valid {r : Region} (hv : validateRegion b r = none) :
    ((fixRegion r).p0 : Int) = r.ry.toInt / 8 ∧
    ((fixRegion r).p1 : Int) = (r.ry.toInt + r.rh.toInt) / 8 - 1 ∧
    ((fixRegion r).nb : Int) = r.rh.toInt / 8 * r.rw.toInt ∧
    ((fixRegion r).colEnd : Int) = r.rx.toInt + r.rw.toInt := by
  obtain ⟨hr, hc, -, -⟩ := validate_eq_none.mp hv
  obtain ⟨hx, hw, -⟩ := (colOk_iff _ _ _).mp hc
  obtain ⟨hy, hh, -, hymod, hhmod⟩ := (rowOk_iff _ _ _).mp hr
  have hnb : 0 ≤ r.rh.toInt / 8 * r.rw.toInt := mul_nonneg (by omega) hw.le
  exact ⟨Int.toNat_of_nonneg (by omega), Int.toNat_of_nonneg (by omega), Int.toNat_of_nonneg hnb,
    Int.toNat_of_nonneg (by omega)⟩

/-- Settles O25: the four registers are those of `fixRegion`. -/
theorem passedCheckFixesTheSpan : Obligations.PassedCheckFixesTheSpan := by
  intro s hrun hp hs hv
  obtain ⟨hp0, hp1, hnb, hcolEnd⟩ := fixRegion_of_valid hv
  refine ⟨_, _, _, _, hp0, hp1, hnb, hcolEnd, ?_⟩
  rw [step_of_check hrun hp hs, checked_of_valid hv]
  rfl

end Sys2Proof.Machine
end

section
/-! PROOFS. The buffer packing (41_buffer_packing R130-R139): where the bytes of a valid region stand under both layouts,
what the buffer write makes of the buffer, and what READBUF answers for a region that was placed. -/
namespace Sys2Proof.Machine

variable {s : State} {b : Build} {r : Region}

/-! ### The addresses -/

/-- Settles O26: under each layout the addresses rise with the index, and the last of them is inside the buffer. -/
theorem regionAddressesAreDistinctAndInside : Obligations.RegionAddressesAreDistinctAndInside := by
  intro b r _ hr
  have f := Region.facts hr
  have hlinear : StrictMono (addrLinear b r) := fun _ _ hij => Nat.add_lt_add_left hij _
  have hstrided : StrictMono (addrStrided b r) := fun _ _ hij => addrStrided_lt_of_lt f hij
  exact ⟨fun i hi => ⟨addrLinear_lt f hi, addrStrided_lt f hi⟩,
    fun i j _ _ hij => ⟨hlinear.injective.ne hij, hstrided.injective.ne hij⟩⟩

/-- On one page every index is a column. -/
theorem addrStrided_eq_addrLinear_of_onePage (f : r.Facts b) (h : r.p0 = r.p1) {i : Nat} (hi : i < r.nb) :
    addrStrided b r i = addrLinear b r i := by
  have hi : i < r.rw.toNat := by simpa [f.count, h] using hi
  simp [addrStrided, addrLinear, baseAddr, Nat.div_eq_of_lt hi, Nat.mod_eq_of_lt hi]

/-- At full width the next page's first column follows the last column of a page. -/
theorem addrStrided_eq_addrLinear_of_fullWidth (h : r.rw.toNat = b.cols) (i : Nat) :
    addrStrided b r i = addrLinear b r i := by
  have hdiv := Nat.div_add_mod' i b.cols
  rw [addrStrided, addrLinear, baseAddr, h, Nat.add_mul]
  omega

/-- Settles O27: in either case the Strided address is the Linear one. -/
theorem layoutsAgreeOnOnePageOrFullWidth : Obligations.LayoutsAgreeOnOnePageOrFullWidth := by
  intro b r _ hr h i hi
  have hagree : addrStrided b r i = addrLinear b r i := by
    obtain hpage | ⟨-, hwidth⟩ := h
    · exact addrStrided_eq_addrLinear_of_onePage (Region.facts hr) hpage hi
    · exact addrStrided_eq_addrLinear_of_fullWidth hwidth i
  exact ⟨hagree, rfl⟩

/-! ### The buffer write -/

theorem regionBytes_getElem? {i : Nat} (hi : i < r.nb) :
    (regionBytes r)[i]? = if r.op = opBitmap then r.dataIn[i]? else some r.fill := by
  unfold regionBytes
  split
  · exact List.getElem?_take_of_lt hi
  · exact List.getElem?_replicate_of_lt hi

theorem nb_le_regionBytes_length (h : r.op = opBitmap → r.nb ≤ r.dataIn.length) :
    r.nb ≤ (regionBytes r).length := by
  unfold regionBytes
  split
  · next hop => exact (List.length_take_of_le (h hop)).ge
  · exact List.length_replicate.ge

theorem step_of_bufwr (hp : s.port = none) (hs : s.state = .bufwr) : step s = stepBufwr s := by
  have hoff : s.offered = none := offered_port_none hp (by simp [hs])
  calc step s = sequencerStep s := by simp [step, cycle, hoff]
    _ = stepBufwr s := sequencerStep_bufwr hs

/-- Settles O28: no address of a valid region leaves the buffer, so the bytes are placed, and no two addresses are the
same, so each byte stays where it was placed. -/
theorem bufferWritePlacesTheRegion : Obligations.BufferWritePlacesTheRegion := by
  intro s h hf hp hs hdata
  have f := Region.facts (h.region (by simp [hs]) (by simp [hs]))
  obtain ⟨m, hm⟩ := Option.isSome_iff_exists.mp (placeBytes_regionBytes_isSome f s.buf)
  have hlen : s.region.nb ≤ (regionBytes s.region).length := nb_le_regionBytes_length hdata
  obtain ⟨-, hread⟩ : { s with buf := m }.placed :=
    placed_of_placeBytes (s := { s with buf := m }) f h.memory hm hlen
  obtain ⟨-, hframe, -⟩ := placeBytes_spec hm h.memory
  refine ⟨m, ?_, fun i hi => ?_, fun a ha => hframe a fun j hj => ?_⟩
  · rw [step_of_bufwr hp hs]
    exact stepBufwr_eq_next.mpr ⟨⟨h.build, hf⟩, m, hm, .inr ⟨hlen, rfl⟩⟩
  · exact (hread i hi).symm.trans (regionBytes_getElem? hi)
  · rw [Nat.zero_add]
    exact ha j (hj.trans_le (regionBytes_length_le _))

/-- A canonical buffer that reads 0x00 everywhere lists nothing. -/
theorem Memory.eq_nil_of_read {top : Nat} {m : Memory} (hm : m.wf top = true)
    (h : ∀ a, a < top → m.read a = 0#8) : m = [] := by
  cases m with
  | nil => rfl
  | cons c m =>
    obtain ⟨k, v⟩ := c
    simp only [Memory.wf, Memory.wfFrom, Bool.and_eq_true, decide_eq_true_eq, bne_iff_ne] at hm
    obtain ⟨⟨⟨-, hk⟩, hv⟩, -⟩ := hm
    exact absurd (by simpa [Memory.read] using h k hk) hv

/-- The region of CLEAR is all the pages of the surface (41_buffer_packing R136). -/
theorem span_of_surface (hb : admitted b = true) (hr : r.ok b) (hy : r.ry = 0#32) (hh : r.rh.toNat = b.pages * 8) :
    r.p0 = 0 ∧ r.p1 + 1 = b.pages := by
  obtain ⟨-, hone, height, -⟩ := (admitted_iff b).mp hb
  obtain ⟨-, hvalid, hfix⟩ := hr
  have hrh : r.rh.toInt = r.rh.toNat := BitVec.toInt_eq_toNat_of_lt (by omega)
  obtain ⟨hp0, hp1, -⟩ := fixRegion_of_valid hvalid
  rw [hfix, hy, BitVec.toInt_zero] at hp0 hp1
  omega

theorem nb_of_surface (hb : admitted b = true) (hr : r.ok b) (hy : r.ry = 0#32) (hw : r.rw.toNat = b.cols)
    (hh : r.rh.toNat = b.pages * 8) : r.nb = cap b := by
  obtain ⟨hp0, hp1⟩ := span_of_surface hb hr hy hh
  rw [(Region.facts hr).count, hp0, hp1, hw]
  rfl

/-- The byte of CLEAR's region with index `i` stands at the address `i`, under both layouts. -/
theorem addr_of_surface (hp0 : r.p0 = 0) (hx : r.rx = 0#32) (hw : r.rw.toNat = b.cols) (i : Nat) : addr b r i = i := by
  have hlinear : addrLinear b r i = i := by simp [addrLinear, baseAddr, hp0, hx]
  unfold addr
  split
  · exact hlinear
  · rw [addrStrided_eq_addrLinear_of_fullWidth hw, hlinear]

/-- Settles O30: every address of the buffer is one of the region's, so 0x00 is written there. -/
theorem clearWriteZeroesTheBuffer : Obligations.ClearWriteZeroesTheBuffer := by
  intro s h hf hp hs hop hx hy hw hh hfill
  have hr : s.region.ok s.build := h.region (by simp [hs]) (by simp [hs])
  obtain ⟨m, hstep, hread, -⟩ := bufferWritePlacesTheRegion s h hf hp hs (by simp [hop])
  obtain ⟨hp0, -⟩ := span_of_surface h.build hr hy hh
  have hnb : s.region.nb = cap s.build := nb_of_surface h.build hr hy hw hh
  have hwf : m.wf (cap s.build) = true := (everyStepKeepsTheInvariant _ _ h hstep).memory
  have hzero : ∀ a, a < cap s.build → m.read a = 0#8 := fun a ha => by
    have hread := hread a (hnb ▸ ha)
    rwa [addr_of_surface hp0 hx hw, hop, if_neg (by decide), hfill, Option.some.injEq] at hread
  have hnil : m = [] := Memory.eq_nil_of_read hwf hzero
  exact ⟨_, hstep, hnil, fun a => by simp [hnil]⟩

/-! ### Reading the region back -/

theorem execReadbuf_of_memRead (hs : s.ready) {off cnt : Word} {bytes : List Byte}
    (h : s.memRead off.toNat cnt.toNat = some bytes) :
    exec (.readbuf off cnt) s = .next ((s.start opReadbuf).finish .resOk bytes) := by
  refine (accept_of_ready hs _).trans ?_
  simp only [h]

/-- `n` bytes of a placed region that stand at consecutive addresses from `a` are what a read of `n` bytes at `a` answers. -/
theorem memRead_of_placed (f : s.region.Facts s.build) (hpl : s.placed) {k n a : Nat} (hn : 1 ≤ n)
    (hk : k + n ≤ s.region.nb) (ha : ∀ i, i < n → addr s.build s.region (k + i) = a + i) :
    s.memRead a n = some (((regionBytes s.region).drop k).take n) := by
  obtain ⟨hlen, hread⟩ := hpl
  have hlast : addr s.build s.region (k + (n - 1)) < cap s.build := addr_lt f (by omega)
  rw [ha _ (by omega)] at hlast
  refine State.memRead_eq_some.mpr ⟨by omega, List.ext_getElem? fun i => ?_⟩
  by_cases hi : i < n
  · simp [hi, List.getElem?_take_of_lt, hread (k + i) (by omega), ha i hi]
  · simp [hi]

/-- Under Linear the whole region is one run of addresses (41_buffer_packing R132). -/
theorem memRead_of_placed_linear (f : s.region.Facts s.build) (hpl : s.placed) (hl : s.build.layout = .linear) :
    s.memRead (baseAddr s.build s.region) s.region.nb = some (regionBytes s.region) := by
  have hnb : 1 ≤ s.region.nb := by
    rw [f.count]
    exact Nat.mul_pos (by have := f.span; omega) f.width
  have hread := memRead_of_placed f hpl (k := 0) (a := baseAddr s.build s.region) hnb (by omega)
    fun i _ => by simp [addr, hl, addrLinear]
  rwa [List.drop_zero, List.take_of_length_le hpl.1.le] at hread

/-- Under Strided each page of the region is a run of addresses (41_buffer_packing R131). -/
theorem memRead_of_placed_strided (f : s.region.Facts s.build) (hpl : s.placed) (hl : s.build.layout = .strided)
    {j : Nat} (hj : j < pageCount s.region) :
    s.memRead ((s.region.p0 + j) * s.build.cols + s.region.rx.toNat) s.region.rw.toNat =
      some (((regionBytes s.region).drop (j * s.region.rw.toNat)).take s.region.rw.toNat) := by
  have hright := f.right
  refine memRead_of_placed f hpl f.width ?_ fun i hi => ?_
  · rw [f.count, ← Nat.succ_mul]
    exact Nat.mul_le_mul_right _ hj
  · have haddr := addrStrided_regionIndex f (pg := s.region.p0 + j) (col := s.region.rx.toNat + i)
      (by omega) (by omega) (by omega)
    simpa [addr, hl, regionIndex, Nat.add_assoc] using haddr

/-- Settles O31: READBUF answers what the read of the run answers. -/
theorem placedRegionReadsBack : Obligations.PlacedRegionReadsBack := by
  intro s off cnt hs hr hpl
  have f := Region.facts hr
  refine ⟨fun hl hoff hcnt => ⟨_, execReadbuf_of_memRead hs ?_, rfl⟩,
    fun hl j hj hoff hcnt => ⟨_, execReadbuf_of_memRead hs ?_, rfl⟩⟩
  · rw [hoff, hcnt]
    exact memRead_of_placed_linear f hpl hl
  · rw [hoff, hcnt]
    exact memRead_of_placed_strided f hpl hl hj

/-! ### The caller's packing -/

theorem packByte_getLsbD (pix : Nat → Nat → Bool) (x y w i : Nat) {k : Nat} (hk : k < 8) :
    (packByte pix x y w i).getLsbD k = pix (y + 8 * (i / w) + k) (x + i % w) := by
  rw [packByte, BitVec.getLsbD_ofFnLE, dif_pos hk]

/-- Settles O32: byte `i` of the list is the packed byte of index `i`. -/
theorem packedBitsAreThePixels : Obligations.PackedBitsAreThePixels := by
  intro pix x y w h
  refine ⟨by simp [pack], fun i hi => ⟨packByte pix x y w i, ?_, fun k hk => packByte_getLsbD pix x y w i hk⟩⟩
  simp [pack, hi]

end Sys2Proof.Machine
end

section
/-! PROOFS. One step of the engine (42_transfer_engine R165, R170): the row of a state's transfer as one equation, and what a
step with nothing presented keeps. -/
namespace Sys2Proof.Machine

variable {s t u : State} {i : Instr} {q : SeqState}

/-! ### A transfer with its answer -/

/-- The state after the transfer of `bytes`: its answer recorded and, if it failed, its event sent (42_transfer_engine R165,
R168). -/
def State.sent (s : State) (bytes : List Byte) (kind : XKind) : State :=
  if s.nextAnswer = .fail then (s.xfer bytes).emit (s.xferDiag kind bytes.length) else s.xfer bytes

/-- Only a failure under Abort keeps the rest `k` from following the transfer (42_transfer_engine R165). -/
theorem send_eq (s : State) (bytes : List Byte) (kind : XKind) (k : State → State) :
    send s bytes kind k =
      if s.nextAnswer = .fail ∧ s.build.policy = .abort then (s.sent bytes kind).finish .errXfer []
      else k (s.sent bytes kind) := by
  obtain ⟨ha, h⟩ | ⟨ha, hp, h⟩ | ⟨ha, hp, h⟩ := send_cases s bytes kind k <;> simp [*, State.sent]

theorem sent_sameRegisters (s : State) (bytes : List Byte) (kind : XKind) : SameRegisters s (s.sent bytes kind) := by
  unfold State.sent
  split
  · exact (xfer_sameRegisters s bytes).emit _
  · exact xfer_sameRegisters s bytes

theorem sent_port_queue (s : State) (bytes : List Byte) (kind : XKind) :
    (s.sent bytes kind).port = s.port ∧ (s.sent bytes kind).queue = s.queue := by
  unfold State.sent
  split <;> simp

theorem sent_out (s : State) (bytes : List Byte) (kind : XKind) :
    (s.sent bytes kind).out = s.out ++ s.transferEvent bytes s.nextAnswer ::
      (if s.nextAnswer = .fail then [s.xferDiag kind bytes.length] else []) := by
  unfold State.sent
  split <;> simp

/-! ### The rows of 42_transfer_engine R170 -/

/-- The loop registers with which the transfer of a state is sent. -/
def State.dueLoop (s : State) : Loop :=
  match s.state with
  | .page => s.startPage.loop
  | .data => s.setChunk.loop
  | .idle | .check | .bufwr | .colLo | .colHi | .colBoth => s.loop

/-- The bytes of a state's transfer. -/
def State.dueBytes (s : State) : List Byte :=
  match s.state with
  | .page => pageSelectBytes (pageField s.build) (BitVec.ofNat 3 s.loop.pg)
  | .colLo => colLoBytes (colLoField s.build) (colLow s.loop.col)
  | .colHi => colHiBytes (colHiField s.build) (colHigh s.loop.col)
  | .colBoth => colBothBytes (colLoField s.build) (colLow s.loop.col) (colHiField s.build) (colHigh s.loop.col)
  | .data => dataBytes s.chunkBytes
  | .idle | .check | .bufwr => []

/-- What follows the transfer of state `q`. -/
def afterDue (q : SeqState) (u : State) : State :=
  match q with
  | .page => { u with state := colSelectState u.build }
  | .colLo => { u with state := .colHi }
  | .colHi | .colBoth => { u with state := .data }
  | .data => u.advance.nextChunk
  | .idle | .check | .bufwr => u

/-- The state that follows an engine state. -/
def State.engineRow (s : State) : State :=
  send { s with loop := s.dueLoop } s.dueBytes (positionOf s.state) (afterDue s.state)

theorem dueLoop_pg (s : State) : s.dueLoop.pg = s.loop.pg := by
  unfold State.dueLoop; split <;> rfl

theorem dueLoop_col (s : State) : s.dueLoop.col = if s.state = .page then s.region.rx.toNat else s.loop.col := by
  unfold State.dueLoop; split <;> simp [*]

theorem exec_due (hruns : s.runs) (hd : dueTransfer s = some i) : exec i s = .next s.engineRow := by
  have hdue := hd
  obtain ⟨_, _, _, q, _⟩ := s
  cases q <;> dsimp only [dueTransfer] at hd
  case data =>
    obtain ⟨bytes, hread, rfl⟩ := Option.map_eq_some_iff.mp hd
    have hbytes : State.chunkBytes _ = bytes := congrArg (Option.getD · []) hread
    subst hbytes
    exact issue_of_due hruns hdue _
  all_goals cases hd
  all_goals exact issue_of_due hruns hdue _

theorem step_of_due (hp : s.port = none) (he : s.state.engine) (hd : dueTransfer s = some i) : step s = exec i s := by
  have hoff : s.offered = none := offered_port_none hp he.ne_idle_check.1
  calc step s = sequencerStep s := by simp [step, cycle, hoff]
    _ = exec i s := sequencerStep_engine he hd

/-- An engine state of the invariant takes its row. -/
theorem State.Inv.step_engine (h : s.Inv) (hf : s.fault = []) (hp : s.port = none) (he : s.state.engine) :
    step s = .next s.engineRow := by
  obtain ⟨i, hi⟩ := Option.isSome_iff_exists.mp (h.dueTransfer_isSome he)
  rw [step_of_due hp he hi, exec_due ⟨h.build, hf⟩ hi]

/-- An engine state that takes a step takes its row. -/
theorem eq_engineRow_of_step (hp : s.port = none) (he : s.state.engine) (h : step s = .next t) : t = s.engineRow := by
  have hoff : s.offered = none := offered_port_none hp he.ne_idle_check.1
  have hruns := step_runs h
  obtain ⟨r, u, i, ho, -⟩ | ⟨r, u, ho, -⟩ | ⟨-, hs, -⟩ | ⟨-, hs, -⟩ | ⟨-, hs, -⟩ | ⟨-, -, i, hi, hx⟩ := step_cases h
  · simp [hoff] at ho
  · simp [hoff] at ho
  · simp [hs, SeqState.engine] at he
  · simp [hs, SeqState.engine] at he
  · simp [hs, SeqState.engine] at he
  · exact Host.Outcome.next.inj (hx.symm.trans (exec_due hruns hi))

/-! ### What follows a transfer -/

/-- What follows a transfer sends nothing, or completes the request. -/
theorem afterDue_out (q : SeqState) (u : State) :
    (afterDue q u).out = u.out ∨ (afterDue q u).out = u.out ++ [.response 0#8 []] := by
  unfold afterDue
  split
  case h_5 =>
    unfold State.nextChunk
    split
    · exact .inl rfl
    · split
      · exact .inl rfl
      · exact .inr rfl
  all_goals exact .inl rfl

/-- What follows a transfer leaves the buffer, the faults and the requests waiting. -/
theorem afterDue_frame (q : SeqState) (u : State) :
    (afterDue q u).buf = u.buf ∧ (afterDue q u).fault = u.fault ∧
      (afterDue q u).port = u.port ∧ (afterDue q u).queue = u.queue := by
  unfold afterDue
  split
  case h_5 =>
    unfold State.nextChunk
    split
    · exact ⟨rfl, rfl, rfl, rfl⟩
    · split <;> exact ⟨rfl, rfl, rfl, rfl⟩
  all_goals exact ⟨rfl, rfl, rfl, rfl⟩

theorem afterDue_loop (hq : q ≠ .data) (u : State) : (afterDue q u).loop = u.loop := by
  cases q <;> [rfl; rfl; rfl; rfl; rfl; rfl; rfl; contradiction]

/-! ### Command bytes (42_transfer_engine R150-R151) -/

theorem pageCmd_eq_append {b : Build} (h : b.pageBase &&& 0x07#8 = 0#8) {p : Nat} (hp : p < 8) :
    pageCmd b p = pageField b ++ BitVec.ofNat 3 p := by
  rw [pageCmd, ← BitVec.setWidth_ofNat_of_le_of_lt (w := 3) (by decide) hp]
  exact or_setWidth_eq_append (m := 5) (n := 3) h _

theorem colLow_eq_ofNat (c : Nat) : colLow c = BitVec.ofNat 4 (c % 16) := by
  apply BitVec.eq_of_toNat_eq
  rw [colLow, BitVec.extractLsb'_toNat, BitVec.toNat_ofNat, BitVec.toNat_ofNat, Nat.shiftRight_zero]
  omega

theorem colHigh_eq_ofNat (c : Nat) : colHigh c = BitVec.ofNat 3 (c / 16) := by
  apply BitVec.eq_of_toNat_eq
  rw [colHigh, BitVec.extractLsb'_toNat, BitVec.toNat_ofNat, BitVec.toNat_ofNat, Nat.shiftRight_eq_div_pow]
  omega

theorem colLoCmd_eq_or (b : Build) (c : Nat) : colLoCmd b c = b.colLoBase ||| BitVec.ofNat 8 (c % 16) := by
  rw [colLoCmd, colLow_eq_ofNat, BitVec.setWidth_ofNat_of_le_of_lt (by decide) (Nat.mod_lt c (by decide))]

theorem colHiCmd_eq_or (b : Build) {c : Nat} (hc : c < 128) :
    colHiCmd b c = b.colHiBase ||| BitVec.ofNat 8 (c / 16) := by
  rw [colHiCmd, colHigh_eq_ofNat, BitVec.setWidth_ofNat_of_le_of_lt (by decide) (Nat.div_lt_of_lt_mul hc)]

end Sys2Proof.Machine
end

section
/-! PROOFS. The chunks of a page and the transfers of a region (42_transfer_engine R160-R164): the chunks of a page, joined,
are the page's bytes, and the pages, joined, the region's. -/
namespace Sys2Proof.Machine

variable {b : Build} {r : Region} {j k : Nat}

/-- The bytes of the page `j` pages below the first (20_memory R52). -/
def pageBytes (r : Region) (j : Nat) : List Byte := ((regionBytes r).drop (j * r.rw.toNat)).take r.rw.toNat

/-- The transfers of chunk `k` of the page `j` pages below the first: the column-select, then the data (42_transfer_engine
R164). -/
def chunkTransfers (b : Build) (r : Region) (j k : Nat) : List (List Byte) :=
  colSelectTransfers b (r.rx.toNat + k * b.maxChunk) ++ [Config.dataMarker :: chunkOf b r j k]

theorem pageTransfers_eq (b : Build) (r : Region) (j : Nat) :
    pageTransfers b r j = [Config.cmdMarker, pageCmd b (r.p0 + j)] ::
      (List.range (chunksPerPage b r)).flatMap (chunkTransfers b r j) := rfl

/-! ### The number of chunks -/

/-- `t` counts the chunks that start inside the page (42_transfer_engine R161). -/
theorem lt_chunksPerPage_iff (hb : admitted b = true) : k < chunksPerPage b r ↔ k * b.maxChunk < r.rw.toNat := by
  obtain ⟨-, -, -, hchunk, -⟩ := (admitted_iff b).mp hb
  rw [chunksPerPage, ceilDiv, Nat.lt_iff_add_one_le, Nat.le_div_iff_mul_le hchunk, Nat.succ_mul]
  omega

theorem width_le_chunksPerPage_mul (hb : admitted b = true) : r.rw.toNat ≤ chunksPerPage b r * b.maxChunk :=
  Nat.not_lt.mp fun h => (lt_irrefl _) ((lt_chunksPerPage_iff hb).mpr h)

theorem one_le_chunksPerPage (hb : admitted b = true) (f : r.Facts b) : 1 ≤ chunksPerPage b r :=
  (lt_chunksPerPage_iff hb).mpr (by have := f.width; omega)

/-! ### The bytes of a page in chunks -/

/-- The pieces of length `m` of a list, joined. -/
theorem flatMap_range_drop_take {α : Type} (l : List α) (m n : Nat) :
    (List.range n).flatMap (fun k => (l.drop (k * m)).take m) = l.take (n * m) := by
  induction n with
  | zero => simp
  | succ n ih => simp [List.range_succ, ih, Nat.succ_mul, List.take_add]

theorem chunkOf_eq (b : Build) (r : Region) (j k : Nat) :
    chunkOf b r j k = ((pageBytes r j).drop (k * b.maxChunk)).take b.maxChunk := by
  simp [chunkOf, pageBytes, List.drop_take, List.take_take]

theorem pageBytes_length (f : r.Facts b) (hlen : (regionBytes r).length = r.nb) (hj : j < pageCount r) :
    (pageBytes r j).length = r.rw.toNat := by
  have hend : (j + 1) * r.rw.toNat ≤ r.nb := f.count ▸ Nat.mul_le_mul_right _ hj
  rw [Nat.succ_mul] at hend
  rw [pageBytes, List.length_take, List.length_drop, hlen]
  omega

theorem chunkOf_length (f : r.Facts b) (hlen : (regionBytes r).length = r.nb) (hj : j < pageCount r) :
    (chunkOf b r j k).length = min b.maxChunk (r.rw.toNat - k * b.maxChunk) := by
  rw [chunkOf_eq, List.length_take, List.length_drop, pageBytes_length f hlen hj]

theorem flatMap_chunkOf (hb : admitted b = true) (r : Region) (j : Nat) :
    (List.range (chunksPerPage b r)).flatMap (chunkOf b r j) = pageBytes r j := by
  have hpage : (pageBytes r j).length ≤ chunksPerPage b r * b.maxChunk :=
    (List.length_take_le _ _).trans (width_le_chunksPerPage_mul hb)
  rw [funext (chunkOf_eq b r j), flatMap_range_drop_take, List.take_of_length_le hpage]

theorem flatMap_pageBytes (f : r.Facts b) : (List.range (pageCount r)).flatMap (pageBytes r) = regionBytes r := by
  have hall : (regionBytes r).length ≤ pageCount r * r.rw.toNat := f.count ▸ regionBytes_length_le r
  exact (flatMap_range_drop_take _ _ _).trans (List.take_of_length_le hall)

/-! ### The number of transfers -/

theorem colSelectTransfers_length (b : Build) (c : Nat) : (colSelectTransfers b c).length = colSelectCount b := by
  unfold colSelectTransfers colSelectCount; split <;> rfl

theorem chunkTransfers_length (b : Build) (r : Region) (j k : Nat) :
    (chunkTransfers b r j k).length = colSelectCount b + 1 := by
  simp [chunkTransfers, colSelectTransfers_length]

theorem pageTransfers_length (b : Build) (r : Region) (j : Nat) :
    (pageTransfers b r j).length = 1 + chunksPerPage b r * (colSelectCount b + 1) := by
  simp [pageTransfers_eq, chunkTransfers_length, Nat.add_comm]

theorem regionTransfers_length (b : Build) (r : Region) : (regionTransfers b r).length = transferCount b r := by
  simp [regionTransfers, pageTransfers_length, transferCount]

/-- Settles O54: chunk `k` has the columns left from `k` chunks on, at most `MAX_CHUNK`, and `t` is the first `k` with none
left. -/
theorem chunkScheduleOfAPage : Obligations.ChunkScheduleOfAPage := by
  intro b r j hb hr hlen hj
  have f := Region.facts hr
  have hone : 1 ≤ chunksPerPage b r := one_le_chunksPerPage hb f
  obtain ⟨n, hn⟩ : ∃ n, chunksPerPage b r = n + 1 := Nat.exists_eq_add_of_le' hone
  have hin : n * b.maxChunk < r.rw.toNat := (lt_chunksPerPage_iff hb).mp (hn ▸ Nat.lt_succ_self n)
  have hout : r.rw.toNat ≤ (n + 1) * b.maxChunk := hn ▸ width_le_chunksPerPage_mul hb
  obtain ⟨-, -, -, hchunk, -⟩ := (admitted_iff b).mp hb
  have hsum : ((List.range (n + 1)).map fun k => (chunkOf b r j k).length).sum = r.rw.toNat := by
    rw [← List.length_flatMap, ← hn, flatMap_chunkOf hb, pageBytes_length f hlen hj]
  rw [Nat.succ_mul] at hout
  simp only [hn, Nat.add_sub_cancel, chunkOf_length f hlen hj, Nat.succ_mul] at hsum ⊢
  refine ⟨by omega, by omega, fun k hk => ?_, by omega, by omega, by omega, hsum, regionTransfers_length b r⟩
  have hfull : (k + 1) * b.maxChunk ≤ n * b.maxChunk := Nat.mul_le_mul_right _ (by omega)
  rw [Nat.succ_mul] at hfull
  omega

/-! ### The pixel bytes -/

theorem pixelBytes_append (ts us : List (List Byte)) : pixelBytes (ts ++ us) = pixelBytes ts ++ pixelBytes us := by
  induction ts with
  | nil => rfl
  | cons bytes ts ih =>
    cases bytes with
    | nil => exact ih
    | cons m d =>
      simp only [List.cons_append, pixelBytes, ih]
      split
      · rw [List.append_assoc]
      · rfl

theorem pixelBytes_flatMap (l : List Nat) (g : Nat → List (List Byte)) :
    pixelBytes (l.flatMap g) = l.flatMap fun k => pixelBytes (g k) := by
  induction l with
  | nil => rfl
  | cons k l ih => rw [List.flatMap_cons, List.flatMap_cons, pixelBytes_append, ih]

theorem pixelBytes_colSelectTransfers (b : Build) (c : Nat) : pixelBytes (colSelectTransfers b c) = [] := by
  unfold colSelectTransfers; split <;> rfl

theorem pixelBytes_chunkTransfers (b : Build) (r : Region) (j k : Nat) :
    pixelBytes (chunkTransfers b r j k) = chunkOf b r j k := by
  simp [chunkTransfers, pixelBytes_append, pixelBytes_colSelectTransfers, pixelBytes]

theorem pixelBytes_pageTransfers (hb : admitted b = true) (r : Region) (j : Nat) :
    pixelBytes (pageTransfers b r j) = pageBytes r j :=
  calc pixelBytes (pageTransfers b r j)
      = pixelBytes ((List.range (chunksPerPage b r)).flatMap (chunkTransfers b r j)) := rfl
    _ = (List.range (chunksPerPage b r)).flatMap (chunkOf b r j) := by
        simp only [pixelBytes_flatMap, pixelBytes_chunkTransfers]
    _ = pageBytes r j := flatMap_chunkOf hb r j

/-- Settles O53: the commands carry no pixel, the chunks of a page are its bytes and the pages the region's. -/
theorem pixelBytesSentAreTheRegionsBytes : Obligations.PixelBytesSentAreTheRegionsBytes := by
  intro b r hb hr _
  calc pixelBytes (regionTransfers b r)
      = (List.range (pageCount r)).flatMap (pageBytes r) := by
        simp only [regionTransfers, pixelBytes_flatMap, pixelBytes_pageTransfers hb]
    _ = regionBytes r := flatMap_pageBytes (Region.facts hr)

end Sys2Proof.Machine
end

section
/-! PROOFS. The engine as one function and the sequencer's steps (42_transfer_engine R169-R173): one induction over the chunks
of a page and one over the pages, in which the function's continuations are the states the sequencer passes through. -/
namespace Sys2Proof.Machine

variable {s t u v : State} {b : Build} {r : Region} {q : SeqState} {n j k : Nat} {K : State → State}
  {ts : List (List Byte)}

/-! ### Runs -/

theorem step_of_idle (h : s.ready) (hq : s.quiet) : step s = .next s := by
  rw [step_of_quiet hq, sequencerStep_idle h.2.2]
  exact stepIdle_eq_next.mpr ⟨⟨h.1, h.2.1⟩, rfl⟩

theorem run_of_idle (h : s.ready) (hq : s.quiet) (n : Nat) : Host.Core.run core n s = .next s := by
  induction n with
  | zero => rfl
  | succ n ih => exact run_succ_eq_next.mpr ⟨s, step_of_idle h hq, ih⟩

theorem run_add_eq_next {m : Nat} : Host.Core.run core (m + n) s = .next t ↔
    ∃ u : State, Host.Core.run core m s = .next u ∧ Host.Core.run core n u = .next t := by
  induction m generalizing s with
  | zero =>
    rw [Nat.zero_add]
    exact ⟨fun h => ⟨s, rfl, h⟩, fun ⟨u, hu, h⟩ => Host.Outcome.next.inj hu ▸ h⟩
  | succ m ih =>
    rw [Nat.add_right_comm, run_succ_eq_next]
    simp only [run_succ_eq_next, ih]
    exact ⟨fun ⟨w, hs, u, hm, hn⟩ => ⟨u, ⟨w, hs, hm⟩, hn⟩, fun ⟨u, ⟨w, hs, hm⟩, hn⟩ => ⟨w, hs, u, hm, hn⟩⟩

/-! ### A state of the engine function, put in a state of the sequencer -/

/-- `s` with the sequencer in state `q`: the engine function leaves `STATE` alone until it completes. -/
def State.inState (s : State) (q : SeqState) : State := { s with state := q }

theorem takeAnswer_inState (s : State) (q : SeqState) : (s.inState q).takeAnswer = s.takeAnswer.inState q := by
  have hanswers : (s.inState q).answers = s.answers := rfl
  unfold State.takeAnswer
  rw [hanswers]
  cases s.answers <;> rfl

theorem sent_inState (s : State) (q : SeqState) (bytes : List Byte) (kind : XKind) :
    (s.inState q).sent bytes kind = (s.sent bytes kind).inState q := by
  have hanswer : (s.inState q).nextAnswer = s.nextAnswer := rfl
  have hx : (s.inState q).xfer bytes = (s.xfer bytes).inState q := by
    unfold State.xfer
    rw [takeAnswer_inState]
    rfl
  unfold State.sent
  rw [hanswer, hx]
  split <;> rfl

/-- A block that goes on: it meets the invariant, no fault is recorded and nothing is presented. -/
structure State.Proceeds (s : State) : Prop where
  inv     : s.Inv
  quiet   : s.quiet
  noFault : s.fault = []

/-- From `w`, `n` steps end the request in `t`. Of `s`, which has the outputs of `w`, the buffer, the region and the build are
kept, and under Continue the transfers `ts` sent after its own, with the result `RES_OK`. -/
structure RunsTo (n : Nat) (w s t : State) (ts : List (List Byte)) : Prop where
  run    : Host.Core.run core n w = .next t
  ended  : t.ended
  buf    : t.buf = s.buf
  region : t.region = s.region
  build  : t.build = s.build
  sends  : s.build.policy = .cont → t.result = .resOk ∧ transfersOf t.out = transfersOf s.out ++ ts

theorem transfersOf_append (es es' : List Event) : transfersOf (es ++ es') = transfersOf es ++ transfersOf es' := by
  induction es with
  | nil => rfl
  | cons e es ih => cases e <;> simp [transfersOf, ih]

theorem transfersOf_sent (s : State) (bytes : List Byte) (kind : XKind) :
    transfersOf (s.sent bytes kind).out = transfersOf s.out ++ [bytes] := by
  rw [sent_out, transfersOf_append]
  split <;> rfl

/-- One transfer of the sequencer is one `Send` of the engine function, and what follows the one follows the other; a failure
under Abort ends both, and the sequencer then waits. -/
theorem runsTo_of_step_send {w : State} {bytes : List Byte} {kind : XKind} {k : State → State} (hw : w.Inv)
    (hready : admitted s.build = true ∧ s.fault = []) (hq : s.quiet)
    (hstep : step w = .next (send (s.inState q) bytes kind k))
    (hk : ∀ u, SameRegisters s u → u.quiet → (k (u.inState q)).Inv → RunsTo n (k (u.inState q)) u (K u) ts) :
    RunsTo (n + 1) w s (send s bytes kind K) (bytes :: ts) := by
  have hsame := sent_sameRegisters s bytes kind
  have hquiet : (s.sent bytes kind).quiet := by
    obtain ⟨hport, hqueue⟩ := sent_port_queue s bytes kind
    exact ⟨hport.trans hq.1, hqueue.trans hq.2⟩
  have hanswer : (s.inState q).nextAnswer = s.nextAnswer := rfl
  have hbuild : (s.inState q).build = s.build := rfl
  rw [send_eq, sent_inState, hanswer, hbuild] at hstep
  rw [send_eq]
  split
  · next hab =>
    rw [if_pos hab] at hstep
    have hend : ((s.sent bytes kind).finish .errXfer []).ready :=
      ⟨hsame.build ▸ hready.1, hsame.fault.trans hready.2, rfl⟩
    exact ⟨run_succ_eq_next.mpr ⟨_, hstep, run_of_idle hend hquiet n⟩, ⟨rfl, hend.2.1⟩, hsame.buf, hsame.region,
      hsame.build, fun hc => by simp [hc] at hab⟩
  · next hab =>
    rw [if_neg hab] at hstep
    have hnext := hk _ hsame hquiet (everyStepKeepsTheInvariant _ _ hw hstep)
    refine ⟨run_succ_eq_next.mpr ⟨_, hstep, hnext.run⟩, hnext.ended, hnext.buf.trans hsame.buf,
      hnext.region.trans hsame.region, hnext.build.trans hsame.build, fun hc => ?_⟩
    obtain ⟨hresult, hout⟩ := hnext.sends (hsame.build ▸ hc)
    exact ⟨hresult, by simp [hout, transfersOf_sent]⟩

/-- The same for the transfer that is due in state `q`. -/
theorem runsTo_send (h : (s.inState q).Proceeds) (he : q.engine)
    (hk : ∀ u, SameRegisters { s with loop := (s.inState q).dueLoop } u → (afterDue q (u.inState q)).Proceeds →
      RunsTo n (afterDue q (u.inState q)) u (K u) ts) :
    RunsTo (n + 1) (s.inState q) s
      (send { s with loop := (s.inState q).dueLoop } (s.inState q).dueBytes (positionOf q) K)
      ((s.inState q).dueBytes :: ts) := by
  obtain ⟨hinv, hquiet, hfault⟩ := h
  have hrun := runsTo_of_step_send (s := { s with loop := (s.inState q).dueLoop }) hinv ⟨hinv.build, hfault⟩ hquiet
    (hinv.step_engine hfault hquiet.1 he) (K := K) (ts := ts) fun u hu huq hinv' => by
      obtain ⟨-, hf, hport, hqueue⟩ := afterDue_frame q (u.inState q)
      exact hk u hu ⟨hinv', ⟨hport.trans huq.1, hqueue.trans huq.2⟩, hf.trans (hu.fault.trans hfault)⟩
  exact { hrun with }

/-! ### A chunk -/

/-- `s` stands before chunk `k` of the page `j` pages below the first of the region `r`, or behind its last chunk. -/
structure State.AtChunk (b : Build) (r : Region) (j k : Nat) (s : State) : Prop where
  build  : s.build = b
  region : s.region = r
  page   : s.loop.pg = r.p0 + j
  col    : s.loop.col = min (r.rx.toNat + k * b.maxChunk) r.colEnd

theorem SameRegisters.trans (hsu : SameRegisters s u) (hut : SameRegisters u t) : SameRegisters s t :=
  ⟨hut.build.trans hsu.build, hut.cfgValid.trans hsu.cfgValid, hut.state.trans hsu.state, hut.region.trans hsu.region,
    hut.loop.trans hsu.loop, hut.buf.trans hsu.buf, hut.fault.trans hsu.fault⟩

theorem State.AtChunk.of_sameRegisters (h : s.AtChunk b r j k) (hst : SameRegisters s t) : t.AtChunk b r j k :=
  ⟨hst.build.trans h.build, hst.region.trans h.region, (congrArg Loop.pg hst.loop).trans h.page,
    (congrArg Loop.col hst.loop).trans h.col⟩

/-- Before a chunk of the page `COL` is its first column. -/
theorem State.AtChunk.col_of_lt (h : s.AtChunk b r j k) (hb : admitted b = true) (f : r.Facts b)
    (hk : k < chunksPerPage b r) : s.loop.col = r.rx.toNat + k * b.maxChunk ∧ s.loop.col < s.region.colEnd := by
  have hin := (lt_chunksPerPage_iff hb).mp hk
  have hright := f.right
  have hcol := h.col
  rw [h.region]
  omega

/-- Behind the last chunk `COL` is `COL_END`. -/
theorem State.AtChunk.col_of_last (h : s.AtChunk b r j (chunksPerPage b r)) (hb : admitted b = true) (f : r.Facts b) :
    ¬ s.loop.col < s.region.colEnd := by
  have hout := width_le_chunksPerPage_mul (r := r) hb
  have hright := f.right
  have hcol := h.col
  rw [h.region]
  omega

theorem nextChunk_of_lt (h : s.loop.col < s.region.colEnd) : s.nextChunk = s.inState (colSelectState s.build) :=
  if_pos h

theorem regionIndex_add {pg col i : Nat} (h : r.rx.toNat ≤ col) :
    regionIndex r pg (col + i) = regionIndex r pg col + i := by
  unfold regionIndex
  omega

/-- The bytes the engine reads for a chunk are the chunk's, from a state of the invariant. -/
theorem State.AtChunk.chunkBytes (h : s.AtChunk b r j k) (f : r.Facts b) (hk : k < chunksPerPage b r)
    (hinv : (s.inState .data).Inv) : s.chunkBytes = chunkOf b r j k := by
  have hb : admitted b = true := h.build ▸ hinv.build
  obtain ⟨hcol, hlt⟩ := h.col_of_lt hb f hk
  obtain ⟨rfl, rfl, hpage, -⟩ := h
  obtain ⟨hlo, -, hrp⟩ : s.AtByte := hinv.columns (.inr (.inr (.inr rfl)))
  have hp1 : s.loop.pg ≤ s.region.p1 := (hinv.pages (.inr (.inr (.inr (.inr rfl))))).2
  have hright := f.right
  have hchunk := add_chunkLen_le (b := s.build) hlt
  have hindex : regionIndex s.region s.loop.pg s.loop.col = j * s.region.rw.toNat + k * s.build.maxChunk := by
    rw [regionIndex, hpage, hcol, Nat.add_sub_cancel_left, Nat.add_sub_cancel_left]
  have hend : (j + 1) * s.region.rw.toNat ≤ s.region.nb :=
    f.count ▸ Nat.mul_le_mul_right _ (by omega)
  rw [Nat.succ_mul] at hend
  have hlen : chunkLen s.build s.region.colEnd s.loop.col =
      min s.build.maxChunk (s.region.rw.toNat - k * s.build.maxChunk) := by
    unfold chunkLen; omega
  have hread := memRead_of_placed f (hinv.placed (.inr (.inr (.inr (.inr rfl))))) (one_le_chunkLen hb hlt)
    (k := j * s.region.rw.toNat + k * s.build.maxChunk) (a := s.loop.rp) (by omega) fun i hi => by
      rw [← hindex, ← regionIndex_add hlo, hrp]
      exact addr_add f hlo (by omega)
  rw [State.chunkBytes, hread, hlen]
  rfl

/-- The data transfer of a chunk, and what follows it. -/
theorem runsTo_data (hat : s.AtChunk b r j k) (f : r.Facts b) (hk : k < chunksPerPage b r)
    (h : (s.inState .data).Proceeds)
    (hnext : ∀ v, v.AtChunk b r j (k + 1) → v.nextChunk.Proceeds → RunsTo n v.nextChunk v (K v) ts) :
    RunsTo (n + 1) (s.inState .data) s (sendChunk s K) ((Config.dataMarker :: chunkOf b r j k) :: ts) := by
  rw [← hat.chunkBytes f hk h.inv]
  have hb : admitted b = true := hat.build ▸ h.inv.build
  obtain ⟨hcol, hlt⟩ := hat.col_of_lt hb f hk
  rw [hat.region] at hlt
  refine runsTo_send (q := .data) (K := fun u => K u.advance) h (.inr (.inr (.inr (.inr rfl)))) fun u hu hproc => ?_
  have hafter : u.advance.AtChunk b r j (k + 1) := by
    refine ⟨hu.build.trans hat.build, hu.region.trans hat.region, (congrArg Loop.pg hu.loop).trans hat.page, ?_⟩
    have hlen : u.advance.loop.col = s.loop.col + chunkLen s.build s.region.colEnd s.loop.col := by
      rw [State.advance_loop, hu.loop]
      rfl
    rw [hlen, hat.build, hat.region, hcol, Nat.succ_mul, chunkLen]
    omega
  exact { hnext u.advance hafter hproc with }

theorem SameRegisters.inState (h : SameRegisters s t) (q : SeqState) : SameRegisters (s.inState q) (t.inState q) :=
  { h with state := rfl }

theorem SameRegisters.dueBytes (h : SameRegisters s t) : t.dueBytes = s.dueBytes := by
  cases s; cases t
  obtain ⟨hb, -, hq, hr, hl, hm, -⟩ := h
  dsimp only at hb hq hr hl hm
  subst hb hq hr hl hm
  rfl

theorem sendColSelect_separate (h : s.build.framing = .separate) (K : State → State) :
    sendColSelect s K = send s (s.inState .colLo).dueBytes .colLo fun u =>
      send u (u.inState .colHi).dueBytes .colHi K := by
  simp only [sendColSelect, h]
  rfl

theorem sendColSelect_combined (h : s.build.framing = .combined) (K : State → State) :
    sendColSelect s K = send s (s.inState .colBoth).dueBytes .colBoth K := by
  simp only [sendColSelect, h]
  rfl

theorem colSelectTransfers_separate (hb : admitted s.build = true) (h : s.build.framing = .separate) :
    colSelectTransfers s.build s.loop.col = [(s.inState .colLo).dueBytes, (s.inState .colHi).dueBytes] := by
  obtain ⟨-, -, -, -, -, -, -, hlo, hhi⟩ := (admitted_iff _).mp hb
  rw [colSelectTransfers, if_pos h, colLoCmd_eq_append hlo, colHiCmd_eq_append hhi]
  rfl

theorem colSelectTransfers_combined (hb : admitted s.build = true) (h : s.build.framing = .combined) :
    colSelectTransfers s.build s.loop.col = [(s.inState .colBoth).dueBytes] := by
  obtain ⟨-, -, -, -, -, -, -, hlo, hhi⟩ := (admitted_iff _).mp hb
  rw [colSelectTransfers, if_neg (by simp [h]), colLoCmd_eq_append hlo, colHiCmd_eq_append hhi]
  rfl

/-- The column-select in the build's framing, two transfers or one, and what follows it in state DATA. -/
theorem runsTo_colSelect (h : (s.inState (colSelectState s.build)).Proceeds)
    (hnext : ∀ u, SameRegisters s u → (u.inState .data).Proceeds → RunsTo n (u.inState .data) u (K u) ts) :
    RunsTo (n + colSelectCount s.build) (s.inState (colSelectState s.build)) s (sendColSelect s K)
      (colSelectTransfers s.build s.loop.col ++ ts) := by
  have hb : admitted s.build = true := h.inv.build
  cases hframing : s.build.framing with
  | separate =>
    rw [sendColSelect_separate hframing, colSelectTransfers_separate hb hframing]
    rw [show colSelectState s.build = .colLo by simp [colSelectState, hframing]] at h ⊢
    rw [show colSelectCount s.build = 2 by simp [colSelectCount, hframing]]
    refine runsTo_send h (.inr (.inl rfl)) fun u hu hproc => ?_
    have hsame : SameRegisters s u := hu
    rw [List.append_eq, ← (hsame.inState .colHi).dueBytes]
    exact runsTo_send (s := u) hproc (.inr (.inr (.inl rfl))) fun v hv hproc' => hnext v (hsame.trans hv) hproc'
  | combined =>
    rw [sendColSelect_combined hframing, colSelectTransfers_combined hb hframing]
    rw [show colSelectState s.build = .colBoth by simp [colSelectState, hframing]] at h ⊢
    rw [show colSelectCount s.build = 1 by simp [colSelectCount, hframing]]
    exact runsTo_send h (.inr (.inr (.inr (.inl rfl)))) hnext

/-- A whole chunk: the column-select, then the data. -/
theorem runsTo_chunk (hat : s.AtChunk b r j k) (f : r.Facts b) (hk : k < chunksPerPage b r)
    (h : (s.inState (colSelectState b)).Proceeds)
    (hnext : ∀ v, v.AtChunk b r j (k + 1) → v.nextChunk.Proceeds → RunsTo n v.nextChunk v (K v) ts) :
    RunsTo (n + (colSelectCount b + 1)) (s.inState (colSelectState b)) s
      (sendColSelect s fun u => sendChunk u K) (chunkTransfers b r j k ++ ts) := by
  have hb : admitted b = true := hat.build ▸ h.inv.build
  obtain ⟨hcol, -⟩ := hat.col_of_lt hb f hk
  rw [chunkTransfers, ← hcol, List.append_assoc, Nat.add_comm (colSelectCount b), ← Nat.add_assoc]
  obtain rfl := hat.build
  exact runsTo_colSelect h fun u hu hproc => runsTo_data (hat.of_sameRegisters hu) f hk hproc hnext

/-! ### A page -/

theorem engineColumns_of_not_lt (h : ¬ s.loop.col < s.region.colEnd) (fuel : Nat) (K : State → State) :
    engineColumns fuel s K = K s := by
  cases fuel with
  | zero => rfl
  | succ fuel => exact if_neg h

/-- The chunks left of a page, `c` of them, and what follows the page. -/
theorem runsTo_columns (hb : admitted b = true) (f : r.Facts b)
    (hend : ∀ v, v.AtChunk b r j (chunksPerPage b r) → v.nextChunk.Proceeds → RunsTo n v.nextChunk v (K v) ts)
    (c : Nat) {k fuel : Nat} {s : State} (hc : k + c = chunksPerPage b r) (hfuel : c ≤ fuel) (hat : s.AtChunk b r j k)
    (h : s.nextChunk.Proceeds) :
    RunsTo (n + c * (colSelectCount b + 1)) s.nextChunk s (engineColumns fuel s K)
      ((List.range' k c).flatMap (chunkTransfers b r j) ++ ts) := by
  induction c generalizing k fuel s with
  | zero =>
    obtain rfl : k = chunksPerPage b r := hc
    rw [engineColumns_of_not_lt (hat.col_of_last hb f), Nat.zero_mul]
    exact hend s hat h
  | succ c ih =>
    obtain ⟨fuel, rfl⟩ := Nat.exists_eq_add_of_le' (Nat.le_of_add_left_le hfuel : 1 ≤ fuel)
    have hk : k < chunksPerPage b r := by omega
    obtain ⟨-, hlt⟩ := hat.col_of_lt hb f hk
    rw [nextChunk_of_lt hlt, hat.build] at h ⊢
    rw [engineColumns, if_pos hlt, List.range'_succ, List.flatMap_cons, List.append_assoc, Nat.succ_mul, ← Nat.add_assoc]
    exact runsTo_chunk hat f hk h fun v hv hproc => ih (by omega) (by omega) hv hproc

theorem chunksPerPage_le_colEnd (hb : admitted b = true) (f : r.Facts b) : chunksPerPage b r ≤ r.colEnd := by
  obtain ⟨-, -, -, hchunk, -⟩ := (admitted_iff b).mp hb
  have hwidth : r.rw.toNat ≤ r.rw.toNat * b.maxChunk := Nat.le_mul_of_pos_right _ hchunk
  have hle : chunksPerPage b r ≤ r.rw.toNat :=
    Nat.not_lt.mp fun h => Nat.not_lt.mpr hwidth ((lt_chunksPerPage_iff hb).mp h)
  have hright := f.right
  omega

/-- A whole page: the page-select, its chunks, and what follows the page. -/
theorem runsTo_page (hbuild : s.build = b) (hregion : s.region = r) (hpage : s.loop.pg = r.p0 + j) (f : r.Facts b)
    (h : (s.inState .page).Proceeds)
    (hend : ∀ v, v.AtChunk b r j (chunksPerPage b r) → v.nextChunk.Proceeds → RunsTo n v.nextChunk v (K v) ts) :
    RunsTo (n + (1 + chunksPerPage b r * (colSelectCount b + 1))) (s.inState .page) s
      (send s.startPage (s.inState .page).dueBytes .page fun u => engineColumns u.region.colEnd u K)
      (pageTransfers b r j ++ ts) := by
  have hb : admitted b = true := hbuild ▸ h.inv.build
  obtain ⟨-, -, hpages, -, -, -, hbase, -⟩ := (admitted_iff b).mp hb
  have hp1 : s.loop.pg ≤ s.region.p1 := (h.inv.pages (.inl rfl)).2
  have hbottom := f.bottom
  rw [hregion, hpage] at hp1
  have hbytes : (s.inState .page).dueBytes = [Config.cmdMarker, pageCmd b (r.p0 + j)] := by
    rw [pageCmd_eq_append hbase (by omega), ← hpage, ← hbuild]
    rfl
  rw [pageTransfers_eq, ← hbytes, Nat.add_comm 1, ← Nat.add_assoc, List.range_eq_range', List.cons_append]
  refine runsTo_send h (.inl rfl) fun u hu hproc => ?_
  have hat : u.AtChunk b r j 0 := by
    refine ⟨hu.build.trans hbuild, hu.region.trans hregion, (congrArg Loop.pg hu.loop).trans hpage, ?_⟩
    have hcol : u.loop.col = s.region.rx.toNat := congrArg Loop.col hu.loop
    have hright := f.right
    rw [hcol, hregion]
    omega
  obtain ⟨-, hlt⟩ := hat.col_of_lt hb f (one_le_chunksPerPage hb f)
  have hnext : u.nextChunk = afterDue .page (u.inState .page) := nextChunk_of_lt hlt
  rw [← hnext] at hproc ⊢
  exact runsTo_columns hb f hend _ (Nat.zero_add _) (hat.region.symm ▸ chunksPerPage_le_colEnd hb f) hat hproc

/-! ### The pages of a region -/

theorem nextChunk_of_page (hcol : ¬ s.loop.col < s.region.colEnd) (hpg : s.loop.pg < s.region.p1) :
    s.nextChunk = State.inState { s with loop := { s.loop with pg := s.loop.pg + 1 } } .page := by
  rw [State.nextChunk, if_neg hcol, if_pos hpg]
  rfl

theorem nextChunk_of_last (hcol : ¬ s.loop.col < s.region.colEnd) (hpg : ¬ s.loop.pg < s.region.p1) :
    s.nextChunk = s.finish .resOk [] := by
  rw [State.nextChunk, if_neg hcol, if_neg hpg]

theorem runsTo_finish (h : (s.finish .resOk []).Proceeds) :
    RunsTo 0 (s.finish .resOk []) s (s.finish .resOk []) [] :=
  ⟨rfl, ⟨rfl, h.noFault⟩, rfl, rfl, rfl, fun _ => ⟨rfl, by simp [transfersOf_append, transfersOf]⟩⟩

/-- The pages from the one `j` pages below the first on, `m` of them after it. -/
theorem runsTo_pages (f : r.Facts b) (m : Nat) {j : Nat} {s : State} (hm : r.p0 + j + m = r.p1) (hbuild : s.build = b)
    (hregion : s.region = r) (hpage : s.loop.pg = r.p0 + j) (h : (s.inState .page).Proceeds) :
    RunsTo ((m + 1) * (1 + chunksPerPage b r * (colSelectCount b + 1))) (s.inState .page) s
      (enginePages (m + 1) (r.p0 + j) s) ((List.range' j (m + 1)).flatMap (pageTransfers b r)) := by
  have hb : admitted b = true := hbuild ▸ h.inv.build
  induction m generalizing j s with
  | zero =>
    rw [← hpage, Nat.one_mul, ← Nat.zero_add (1 + _)]
    refine runsTo_page (ts := []) hbuild hregion hpage f h fun v hv hproc => ?_
    rw [nextChunk_of_last (hv.col_of_last hb f) (by rw [hv.page, hv.region]; omega)] at hproc ⊢
    exact runsTo_finish hproc
  | succ m ih =>
    rw [Nat.succ_mul, List.range'_succ, List.flatMap_cons, ← hpage]
    refine runsTo_page hbuild hregion hpage f h fun v hv hproc => ?_
    rw [nextChunk_of_page (hv.col_of_last hb f) (by rw [hv.page, hv.region]; omega)] at hproc ⊢
    have hnext := ih (s := { v with loop := { v.loop with pg := v.loop.pg + 1 } }) (j := j + 1) (by omega) hv.build hv.region (congrArg (· + 1) hv.page) hproc
    rw [hpage]
    exact { hnext with }

/-- The sequencer in PAGE at P0 runs to the state of the engine function. -/
theorem runsTo_engine (h : s.Proceeds) (hs : s.state = .page) (hpg : s.loop.pg = s.region.p0) :
    RunsTo (transferCount s.build s.region) s s (engine s) (regionTransfers s.build s.region) := by
  have hself : s.inState .page = s := by rw [← hs]; rfl
  have he := h.inv.engineInv (.inl hs)
  have hspan := he.facts.span
  obtain ⟨m, hm⟩ : ∃ m, pageCount s.region = m + 1 := ⟨s.region.p1 - s.region.p0, by unfold pageCount; omega⟩
  have hrun := runsTo_pages he.facts m (j := 0) (s := s) (by unfold pageCount at hm; omega) rfl rfl hpg (hself.symm ▸ h)
  rw [hself, ← hm, ← List.range_eq_range'] at hrun
  exact hrun

/-- Settles O50: the induction's run from PAGE at P0. -/
theorem sequencerRefinesTheEngineFunction : Obligations.SequencerRefinesTheEngineFunction :=
  fun _ h hf hq hs hpg => (runsTo_engine ⟨h, hq, hf⟩ hs hpg).run

/-- Settles O51: the same run, and what the function sends under Continue. -/
theorem engineSendsExactlyTheRegionsTransfers : Obligations.EngineSendsExactlyTheRegionsTransfers := by
  intro s h hf hq hs hpg hc
  have hrun := runsTo_engine ⟨h, hq, hf⟩ hs hpg
  obtain ⟨hresult, hout⟩ := hrun.sends hc
  exact ⟨engine s, hrun.run, hrun.ended.1, hresult, hrun.buf, hrun.ended.2, hout⟩

end Sys2Proof.Machine
end

section
/-! PROOFS. The five transfers as instructions (42_transfer_engine R150-R170): each sends the bytes of the rules when it is
due, and is refused when it is not. -/
namespace Sys2Proof.Machine

variable {s t u v : State} {i : Instr} {k k' : State → State}

/-! ### `Send` as the statements write it out -/

theorem send_eq_transferOutcome (s : State) (bytes : List Byte) (kind : XKind) (k : State → State) :
    send s bytes kind k = transferOutcome s bytes kind k := by
  rw [send_eq]
  unfold transferOutcome State.sent
  cases ha : s.nextAnswer with
  | pass => rw [if_neg (by simp), if_neg (by simp), State.xfer, ha]; rfl
  | fail =>
    rw [if_pos rfl, State.xfer, ha]
    cases hp : s.build.policy with
    | cont => simp [State.emit, State.xferDiag, State.transferEvent]
    | abort => simp [State.emit, State.finish, State.xferDiag, State.transferEvent, resultValue]

/-- What follows a transfer matters only from states with the registers it was sent with. -/
theorem send_congr (h : ∀ u, SameRegisters s u → k u = k' u) (bytes : List Byte) (kind : XKind) :
    send s bytes kind k = send s bytes kind k' := by
  rw [send_eq, send_eq, h _ (sent_sameRegisters s bytes kind)]

theorem colSelectState_eq_ite (b : Build) :
    colSelectState b = if b.framing = .separate then .colLo else .colBoth := by
  cases h : b.framing <;> simp [colSelectState, h]

/-! ### The five transfers -/

theorem startPage_eq (s : State) : s.startPage = { s with loop := { s.loop with
    col := s.region.rx.toNat
    rp := if s.build.layout = .strided then s.loop.pg * s.build.cols + s.region.rx.toNat else s.loop.rp } } := by
  cases h : s.build.layout <;> simp [State.startPage, h]

/-- Settles O33: the transfer is the one due in PAGE, and its command byte is the base with the page in its low bits. -/
theorem pageSelectSendsThePage : Obligations.PageSelectSendsThePage := by
  intro s hruns hs hpg
  obtain ⟨-, -, -, -, -, -, hbase, -⟩ := (admitted_iff _).mp hruns.1
  have hdue : dueTransfer s = some (.pageSelect (pageField s.build) (BitVec.ofNat 3 s.loop.pg)) := by
    simp [dueTransfer, hs]
  have hcmd : s.build.pageBase ||| BitVec.ofNat 8 s.loop.pg = pageField s.build ++ BitVec.ofNat 3 s.loop.pg :=
    pageCmd_eq_append hbase hpg
  refine (issue_of_due hruns hdue _).trans (congrArg _ ?_)
  simp only [colSelectState_eq_ite]
  rw [send_eq_transferOutcome, startPage_eq, hcmd]
  rfl

/-- Settles O34: the transfer is the one due in COLLO, and its command byte is the base with the low column bits. -/
theorem columnLowSendsTheLowBits : Obligations.ColumnLowSendsTheLowBits := by
  intro s hruns hs _
  obtain ⟨-, -, -, -, -, -, -, hbase, -⟩ := (admitted_iff _).mp hruns.1
  have hdue : dueTransfer s = some (.colLo (colLoField s.build) (colLow s.loop.col)) := by simp [dueTransfer, hs]
  rw [← colLow_eq_ofNat, ← colLoCmd_eq_or, colLoCmd_eq_append hbase]
  exact (issue_of_due hruns hdue _).trans (congrArg _ (send_eq_transferOutcome _ _ _ _))

/-- Settles O35: the transfer is the one due in COLHI, and its command byte is the base with the high column bits. -/
theorem columnHighSendsTheHighBits : Obligations.ColumnHighSendsTheHighBits := by
  intro s hruns hs hcol
  obtain ⟨-, -, -, -, -, -, -, -, hbase⟩ := (admitted_iff _).mp hruns.1
  have hdue : dueTransfer s = some (.colHi (colHiField s.build) (colHigh s.loop.col)) := by simp [dueTransfer, hs]
  rw [← colHigh_eq_ofNat, ← colHiCmd_eq_or _ hcol, colHiCmd_eq_append hbase]
  exact (issue_of_due hruns hdue _).trans (congrArg _ (send_eq_transferOutcome _ _ _ _))

/-- Settles O36: the transfer is the one due in COLBOTH, and its two command bytes are those of COLLO and COLHI. -/
theorem combinedSelectSendsBothBytes : Obligations.CombinedSelectSendsBothBytes := by
  intro s hruns hs hcol
  obtain ⟨-, -, -, -, -, -, -, hlo, hhi⟩ := (admitted_iff _).mp hruns.1
  have hdue : dueTransfer s = some (.colSelectCombined (colLoField s.build) (colLow s.loop.col) (colHiField s.build)
      (colHigh s.loop.col)) := by simp [dueTransfer, hs]
  rw [← colLow_eq_ofNat, ← colHigh_eq_ofNat, ← colLoCmd_eq_or, ← colHiCmd_eq_or _ hcol, colLoCmd_eq_append hlo,
    colHiCmd_eq_append hhi]
  exact (issue_of_due hruns hdue _).trans (congrArg _ (send_eq_transferOutcome _ _ _ _))

/-- The list of the buffer's `n` bytes from `a` on is what a read of them answers. -/
theorem memRead_of_getElem? {a n : Nat} {bytes : List Byte} (hin : a + n ≤ cap s.build) (hlen : bytes.length = n)
    (h : ∀ i, i < n → bytes[i]? = some (s.buf.read (a + i))) : s.memRead a n = some bytes := by
  refine State.memRead_eq_some.mpr ⟨hin, List.ext_getElem? fun i => ?_⟩
  by_cases hi : i < n
  · simp [h i hi, hi]
  · rw [List.getElem?_eq_none (by omega), List.getElem?_eq_none (by simp; omega)]

/-- Settles O37: the transfer is the one due in DATA, and `CLEN` is still the chunk's length when `COL` and `RP` advance. -/
theorem dataSendsTheChunk : Obligations.DataSendsTheChunk := by
  intro s bytes hruns hs n hin hlen hbytes
  have hread : s.memRead s.loop.rp n = some bytes := memRead_of_getElem? hin hlen hbytes
  have hdue : dueTransfer s = some (.data bytes) := by
    simp only [dueTransfer, hs, Option.map_eq_some_iff]
    exact ⟨bytes, hread, rfl⟩
  refine (issue_of_due hruns hdue _).trans (congrArg _ ?_)
  rw [← send_eq_transferOutcome]
  refine send_congr (fun u hu => ?_) _ _
  have hclen : u.loop.clen = n := congrArg Loop.clen hu.loop
  simp only [State.nextChunk, State.advance, hclen, colSelectState_eq_ite]
  rfl

/-! ### A transfer in and out of its turn -/

theorem exec_transfer_eq_issue {bytes : List Byte} (h : encode i = .transfer bytes) (s : State) :
    ∃ t, exec i s = issue s i t := by
  cases i
  case pageSelect | colLo | colHi | colSelectCombined | data => exact ⟨_, rfl⟩
  all_goals cases h

theorem isRequest_eq_false_iff : isRequest i = false ↔ ∃ bytes, encode i = .transfer bytes := by
  unfold isRequest
  cases encode i <;> simp

theorem issue_of_not_due (hruns : s.runs) (h : dueTransfer s ≠ some i) (t : State) :
    issue s i t = .refused .outOfSequence := by
  rw [issue, live_of_runs hruns, if_neg h]

/-- The guard refuses a build, and nothing else of its own. -/
theorem eq_buildRefused_of_live {k : Result} {e : Refusal} (h : live s k = .refused e) :
    e = .buildRefused ∨ k = .refused e := by
  unfold live at h
  split at h
  · split at h
    · exact .inr h
    · cases h
  · cases h
    exact .inl rfl

theorem eq_buildRefused_of_accept {k : Result} {e : Refusal} (h : accept s k = .refused e) :
    e = .buildRefused ∨ k = .refused e := by
  obtain h | h := eq_buildRefused_of_live h
  · exact .inl h
  · split at h
    · cases h
    · exact .inr h

theorem eq_buildRefused_of_acceptRegion {r : Region} {e : Refusal} (h : acceptRegion s r = .refused e) :
    e = .buildRefused := by
  obtain h | h := eq_buildRefused_of_accept h
  · exact h
  · split at h <;> cases h

theorem eq_buildRefused_of_exec_request {q : Request} {e : Refusal} (hq : encode i = .request q)
    (h : exec i s = .refused e) : e = .buildRefused := by
  cases i with
  | configure a => exact (eq_buildRefused_of_accept h).resolve_right fun h => by split at h <;> cases h
  | readbuf o n => exact (eq_buildRefused_of_accept h).resolve_right fun h => by split at h <;> cases h
  | reservedOp r => exact (eq_buildRefused_of_accept h).resolve_right fun h => by cases h
  | bitmap x y w hh n d => exact eq_buildRefused_of_acceptRegion h
  | fill x y w hh v => exact eq_buildRefused_of_acceptRegion h
  | clear => exact eq_buildRefused_of_acceptRegion h
  | _ => cases hq

theorem eq_buildRefused_of_exec_due {e : Refusal} (hdue : dueTransfer s = some i) (h : exec i s = .refused e) :
    e = .buildRefused := by
  obtain ⟨bytes, hq⟩ := dueTransfer_isTransfer hdue
  obtain ⟨t, ht⟩ := exec_transfer_eq_issue hq s
  rw [ht, issue, if_pos hdue] at h
  exact (eq_buildRefused_of_live h).resolve_right fun h => by cases h

theorem eq_buildRefused_of_sequencerStep {e : Refusal} (h : sequencerStep s = .refused e) : e = .buildRefused := by
  unfold sequencerStep at h
  split at h
  case h_1 => exact (eq_buildRefused_of_live h).resolve_right fun h => by cases h
  case h_2 => exact (eq_buildRefused_of_live h).resolve_right fun h => by cases h
  case h_3 =>
    refine (eq_buildRefused_of_live h).resolve_right fun h => ?_
    split at h
    · cases h
    · split at h <;> cases h
  all_goals
    split at h
    · next hi => exact eq_buildRefused_of_exec_due hi h
    · exact (eq_buildRefused_of_live h).resolve_right fun h => by cases h

/-- A step is refused only for its build, or for a request of no shape (00_scope R6, log entry 5). -/
theorem step_eq_refused_cases {e : Refusal} (h : step s = .refused e) : e = .buildRefused ∨ e = .malformedRequest := by
  unfold step cycle at h
  split at h
  · unfold present at h
    split at h
    · next i hi =>
      obtain ⟨q, hq⟩ := decodeRequest_isRequest hi
      exact .inl (eq_buildRefused_of_exec_request hq h)
    · exact (eq_buildRefused_of_accept h).imp id fun h => by cases h; rfl
  · exact .inl (eq_buildRefused_of_sequencerStep h)

/-- Settles O38: a wire transfer runs through `issue` alone, which refuses one that is not due; no refusal of a step is that
one. -/
theorem transferOutOfTurnIsRefused : Obligations.TransferOutOfTurnIsRefused := by
  refine ⟨fun s i hruns hi hdue => ?_, fun s h => ?_⟩
  · obtain ⟨bytes, hq⟩ := isRequest_eq_false_iff.mp hi
    obtain ⟨t, ht⟩ := exec_transfer_eq_issue hq s
    rw [ht, issue_of_not_due hruns hdue]
  · obtain h | h := step_eq_refused_cases h <;> cases h

theorem dueTransfer_engine (h : dueTransfer s = some i) : s.state.engine := by
  unfold dueTransfer at h
  cases hs : s.state <;> simp [hs, SeqState.engine] at h ⊢

/-- Settles O7: an engine state has no other step, and a bus reader knows the position of every transfer of the build. -/
theorem stepRunsTheDueTransfer : Obligations.StepRunsTheDueTransfer := by
  intro s i h hp hdue
  refine ⟨step_of_due hp (dueTransfer_engine hdue) hdue, ?_⟩
  obtain ⟨hpage, hlo, hhi, hboth, hdata⟩ := transfersDecodeToThemselves s.build h.build
  have hd := hdue
  unfold dueTransfer at hd
  cases hs : s.state <;> simp only [hs] at hd
  case page => cases hd; exact hpage _
  case colLo => cases hd; exact hlo _
  case colHi => cases hd; exact hhi _
  case colBoth => cases hd; exact hboth _ _
  case data =>
    obtain ⟨bytes, -, rfl⟩ := Option.map_eq_some_iff.mp hd
    refine hdata bytes fun hnil => ?_
    have hleast : 2 ≤ (dataBytes bytes).length := (due_fitsTransport h hdue rfl).least
    simp [hnil, dataBytes] at hleast
  all_goals cases hd

end Sys2Proof.Machine
end

section
/-! PROOFS. What a step of the engine sends and leaves (42_transfer_engine R165-R174), and what any step sends at most. -/
namespace Sys2Proof.Machine

variable {s t u v : State} {i : Instr}

/-- The state with the transfer of its row sent. -/
def State.dueSent (s : State) : State := State.sent { s with loop := s.dueLoop } s.dueBytes (positionOf s.state)

theorem engineRow_eq (s : State) : s.engineRow =
    if s.nextAnswer = .fail ∧ s.build.policy = .abort then s.dueSent.finish .errXfer []
    else afterDue s.state s.dueSent := send_eq _ _ _ _

theorem dueSent_sameRegisters (s : State) : SameRegisters { s with loop := s.dueLoop } s.dueSent :=
  sent_sameRegisters _ _ _

theorem dueSent_out (s : State) : s.dueSent.out = s.out ++
    .transfer s.cfgDevAddr s.dueBytes s.dueBytes.length true true s.nextAnswer ::
      (if s.nextAnswer = .fail then
        [.diag .xfer (.transfer (positionOf s.state) s.loop.pg s.dueLoop.col s.dueBytes.length)] else []) := by
  rw [← dueLoop_pg s]
  exact sent_out _ _ _

/-! ### The answer -/

theorem nextChunk_st_out (u : State) (a : XferStatus) (es : List Event) :
    State.nextChunk { u with st := a, out := es } =
      { u.nextChunk with st := a, out := (State.nextChunk { u with st := a, out := es }).out } := by
  by_cases hcol : u.loop.col < u.region.colEnd
  · rw [nextChunk_of_lt hcol, nextChunk_of_lt (s := { u with st := a, out := es }) hcol]
    rfl
  by_cases hpg : u.loop.pg < u.region.p1
  · rw [nextChunk_of_page hcol hpg, nextChunk_of_page (s := { u with st := a, out := es }) hcol hpg]
    rfl
  · rw [nextChunk_of_last hcol hpg, nextChunk_of_last (s := { u with st := a, out := es }) hcol hpg]
    rfl

/-- What follows a transfer does not look at its answer. -/
theorem afterDue_st_out (q : SeqState) (u : State) (a : XferStatus) (es : List Event) :
    afterDue q { u with st := a, out := es } =
      { afterDue q u with st := a, out := (afterDue q { u with st := a, out := es }).out } := by
  cases q
  case data => exact nextChunk_st_out u.advance a es
  all_goals rfl

theorem dueSent_fail (s : State) (l : List XferStatus) :
    State.dueSent { s with answers := .fail :: l } = { State.dueSent { s with answers := .pass :: l } with
      st := .fail
      out := (State.dueSent { s with answers := .fail :: l }).out } := rfl

/-- Settles O40: under Continue both answers lead on to what follows the transfer, which looks at neither. -/
theorem failedTransferAdvancesAsPassed : Obligations.FailedTransferAdvancesAsPassed := by
  intro s t u l hp he hc ht hu
  have hpolicy : ∀ a : XferStatus, ¬ (a = .fail ∧ s.build.policy = .abort) := by simp [hc]
  have ht : t = afterDue s.state (State.dueSent { s with answers := .pass :: l }) :=
    (eq_engineRow_of_step (s := { s with answers := .pass :: l }) hp he ht).trans
      ((engineRow_eq _).trans (if_neg (hpolicy _)))
  have hu : u = afterDue s.state (State.dueSent { s with answers := .fail :: l }) :=
    (eq_engineRow_of_step (s := { s with answers := .fail :: l }) hp he hu).trans
      ((engineRow_eq _).trans (if_neg (hpolicy _)))
  rw [ht, hu, dueSent_fail]
  exact afterDue_st_out _ _ _ _

/-- Settles O41: the row ends with the failed transfer, its event and the response. -/
theorem abortEndsAtTheFirstFailure : Obligations.AbortEndsAtTheFirstFailure := by
  intro s t hp he hab hfail hstep
  obtain ⟨-, -, -, hregion, -, hbuf, -⟩ := dueSent_sameRegisters s
  rw [eq_engineRow_of_step hp he hstep, engineRow_eq, if_pos ⟨hfail, hab⟩, ← dueLoop_col]
  exact ⟨rfl, rfl, hbuf, hregion, s.dueBytes, by simp [dueSent_out, hfail, resultValue]⟩

/-! ### What a step sends -/

/-- After the transfer and its event a step of the engine sends at most a response. -/
theorem engineRow_out (s : State) : ∃ rest, s.engineRow.out = s.dueSent.out ++ rest ∧
    (rest = [] ∨ rest = [.response 0#8 []] ∨ (s.nextAnswer = .fail ∧ rest = [.response 5#8 []])) := by
  rw [engineRow_eq]
  split
  · next hab => exact ⟨_, State.finish_out _ _ _, .inr (.inr ⟨hab.1, rfl⟩)⟩
  · obtain h | h := afterDue_out s.state s.dueSent
    · exact ⟨[], by rw [h, List.append_nil], .inl rfl⟩
    · exact ⟨_, h, .inr (.inl rfl)⟩

/-- Outside DATA, whose row advances `COL`, a step of the engine leaves the column its transfer was sent with. -/
theorem dueLoop_col_of_engineRow (s : State) :
    s.dueLoop.col = if s.state = .data then s.loop.col else s.engineRow.loop.col := by
  split
  · next hs => rw [dueLoop_col, if_neg (by simp [hs])]
  · next hs =>
    have hloop : s.dueSent.loop = s.dueLoop := (dueSent_sameRegisters s).loop
    rw [engineRow_eq]
    split
    · exact congrArg Loop.col hloop.symm
    · rw [afterDue_loop hs, hloop]

theorem exec_request_out {r : Request} (hq : encode i = .request r) (h : exec i s = .next t) :
    t.out = s.out ∨ ∃ c bs, t.out = s.out ++ [.response c bs] := by
  obtain ⟨-, ⟨-, ht⟩ | ⟨-, ⟨f, ht, -⟩ | ⟨a, -, -, ht⟩ | ⟨a, -, -, ht⟩ | ht | ⟨bytes, ht⟩ | ⟨r, -, -, ht⟩⟩⟩ :=
    exec_request_cases hq h <;> rw [ht]
  -- the first CONFIGURE and READBUF answer; the others send nothing
  case inr.inr.inr.inl => exact .inr ⟨_, _, rfl⟩
  case inr.inr.inr.inr.inr.inl => exact .inr ⟨_, _, rfl⟩
  all_goals exact .inl rfl

theorem geomEvent_reports (e : GeomError) : geomDiag e ≠ .xfer ∧ resultValue (geomResult e) ≠ 0#8 := by
  cases e <;> decide

theorem checked_out (s : State) : s.checked.out = s.out ∨
    ∃ e, s.checked.out = s.out ++ [geomEvent e s.region, .response (resultValue (geomResult e)) []] := by
  obtain ⟨-, h⟩ | ⟨e, -, h⟩ := checked_cases s <;> rw [h]
  · exact .inl rfl
  · exact .inr ⟨e, List.append_assoc _ _ _⟩

theorem stepBufwr_out (h : stepBufwr s = .next t) : t.out = s.out := by
  obtain ⟨-, m, -, ⟨-, rfl⟩ | ⟨-, rfl⟩⟩ := stepBufwr_eq_next.mp h <;> rfl

/-- Settles O42: a request sends at most its response, CHECK at most its event and response, and a step of the engine its
transfer. -/
theorem stepSendsOneTransferAndReportsFailure : Obligations.StepSendsOneTransferAndReportsFailure := by
  intro s t h
  obtain ⟨r, u, i, ho, hi, hx⟩ | ⟨r, u, ho, -, -, rfl⟩ | ⟨-, -, -, rfl⟩ | ⟨-, -, -, rfl⟩ | ⟨-, -, hx⟩ |
    ⟨-, he, i, hi, hx⟩ := step_cases h
  · obtain ⟨q, hq⟩ := decodeRequest_isRequest hi
    have hu : u.out = s.out := (offered_silent ho).out
    obtain hout | ⟨c, bs, hout⟩ := exec_request_out hq hx
    · exact ⟨[], by simp [hout, hu], .inl rfl⟩
    · exact ⟨_, hu ▸ hout, .inr (.inl ⟨c, bs, rfl⟩)⟩
  · exact ⟨[], by simp [(offered_silent ho).out], .inl rfl⟩
  · exact ⟨[], by simp, .inl rfl⟩
  · obtain hout | ⟨e, hout⟩ := checked_out s
    · exact ⟨[], by simp [hout], .inl rfl⟩
    · exact ⟨_, hout, .inr (.inr (.inl ⟨_, _, _, _, _, _, _, rfl, geomEvent_reports e⟩))⟩
  · exact ⟨[], by simp [stepBufwr_out hx], .inl rfl⟩
  · obtain rfl : s.engineRow = t := Host.Outcome.next.inj ((exec_due (step_runs h) hi).symm.trans hx)
    obtain ⟨rest, hout, hrest⟩ := engineRow_out s
    rw [← dueLoop_col_of_engineRow, hout, dueSent_out]
    refine ⟨_, List.append_assoc _ _ _, .inr (.inr (.inr ?_))⟩
    cases ha : s.nextAnswer with
    | pass =>
      obtain rfl | rfl | ⟨hfail, -⟩ := hrest
      · exact .inl ⟨_, _, _, .inl rfl⟩
      · exact .inl ⟨_, _, _, .inr rfl⟩
      · simp [ha] at hfail
    | fail => exact .inr ⟨_, _, _, rest, rfl, hrest.imp id (.imp id And.right)⟩

/-- A step sends at most one transfer. -/
theorem step_transfers_le (h : step s = .next t) :
    (transfersOf t.out).length ≤ (transfersOf s.out).length + 1 := by
  obtain ⟨es, hes, hshape⟩ := stepSendsOneTransferAndReportsFailure s t h
  rw [hes, transfersOf_append, List.length_append]
  have hone : (transfersOf es).length ≤ 1 := by
    obtain rfl | ⟨c, bs, rfl⟩ | ⟨k, x, y, w, h, n, c, rfl, -⟩ | ⟨a, bs, n, rfl | rfl⟩ |
      ⟨a, bs, n, rest, rfl, rfl | rfl | rfl⟩ := hshape <;> simp [transfersOf]
  omega

/-! ### The buffer, and the requests waiting -/

theorem exec_request_buf {r : Request} (hq : encode i = .request r) (h : exec i s = .next t) : t.buf = s.buf := by
  obtain ⟨-, ⟨-, ht⟩ | ⟨-, ⟨f, ht, -⟩ | ⟨a, -, -, ht⟩ | ⟨a, -, -, ht⟩ | ht | ⟨bytes, ht⟩ | ⟨r, -, -, ht⟩⟩⟩ :=
    exec_request_cases hq h <;> rw [ht] <;> rfl

theorem engineRow_frame (s : State) :
    s.engineRow.buf = s.buf ∧ s.engineRow.port = s.port ∧ s.engineRow.queue = s.queue := by
  obtain ⟨hport, hqueue⟩ := sent_port_queue { s with loop := s.dueLoop } s.dueBytes (positionOf s.state)
  obtain ⟨hbuf', -, hport', hqueue'⟩ := afterDue_frame s.state s.dueSent
  have hbuf : s.dueSent.buf = s.buf := (dueSent_sameRegisters s).buf
  rw [engineRow_eq]
  split
  · exact ⟨hbuf, hport, hqueue⟩
  · exact ⟨hbuf'.trans hbuf, hport'.trans hport, hqueue'.trans hqueue⟩

theorem port_of_not_offered (h : s.offered = none) : s.port = none := by
  cases hp : s.port with
  | none => rfl
  | some r => rw [offered_of_port hp] at h; cases h

/-- Settles O44: of the things a step can be, only the buffer write of BUFWR writes the buffer. -/
theorem onlyTheBufferWriteChangesTheBuffer : Obligations.OnlyTheBufferWriteChangesTheBuffer := by
  intro s t h hne
  obtain ⟨r, u, i, ho, hi, hx⟩ | ⟨r, u, ho, -, -, rfl⟩ | ⟨-, -, -, rfl⟩ | ⟨-, -, -, rfl⟩ | ⟨ho, hs, hx⟩ |
    ⟨-, he, i, hi, hx⟩ := step_cases h
  · obtain ⟨q, hq⟩ := decodeRequest_isRequest hi
    exact absurd ((exec_request_buf hq hx).trans (offered_sameRegisters ho).buf) hne
  · exact absurd (offered_sameRegisters ho).buf hne
  · exact absurd rfl hne
  · obtain ⟨-, hc⟩ | ⟨e, -, hc⟩ := checked_cases s <;> exact absurd (congrArg State.buf hc) hne
  · exact ⟨hs, port_of_not_offered ho, stepBufwr_out hx⟩
  · rw [← Host.Outcome.next.inj ((exec_due (step_runs h) hi).symm.trans hx)] at hne
    exact absurd (engineRow_frame s).1 hne

/-- A step presents nothing of its own. -/
theorem step_quiet (hq : s.quiet) (h : step s = .next t) : t.quiet := by
  have hoff : s.offered = none := offered_quiet hq
  obtain ⟨r, u, i, ho, -, -⟩ | ⟨r, u, ho, -, -, -⟩ | ⟨-, -, -, rfl⟩ | ⟨-, -, -, rfl⟩ | ⟨-, hs, hx⟩ |
    ⟨-, he, i, hi, hx⟩ := step_cases h
  · simp [hoff] at ho
  · simp [hoff] at ho
  · exact hq
  · obtain ⟨-, hc⟩ | ⟨e, -, hc⟩ := checked_cases s <;> rw [hc] <;> exact hq
  · obtain ⟨-, m, -, ⟨-, rfl⟩ | ⟨-, rfl⟩⟩ := stepBufwr_eq_next.mp hx <;> exact hq
  · rw [← Host.Outcome.next.inj ((exec_due (step_runs h) hi).symm.trans hx)]
    obtain ⟨-, hport, hqueue⟩ := engineRow_frame s
    exact ⟨hport.trans hq.1, hqueue.trans hq.2⟩

end Sys2Proof.Machine
end

section
/-! PROOFS. A region request from CHECK to its end (42_transfer_engine R172): the check and the buffer write, one step each,
then the run of the engine; under Continue no step can be spared, since each sends at most one transfer. -/
namespace Sys2Proof.Machine

variable {s t u : State} {n : Nat}

/-! ### Runs -/

theorem coreRun_succ_of_step {M : Host.Core} {s u : M.State} (h : M.step s = .next u) (n : Nat) :
    M.run (n + 1) s = M.run n u := by
  rw [Host.Core.run, h]

theorem run_succ_of_step (h : step s = .next u) (n : Nat) : Host.Core.run core (n + 1) s = Host.Core.run core n u :=
  coreRun_succ_of_step (M := core) h n

theorem run_quiet_of_quiet (n : Nat) (hq : s.quiet) (h : Host.Core.run core n s = .next t) : t.quiet := by
  induction n generalizing s with
  | zero => exact Host.Outcome.next.inj h ▸ hq
  | succ n ih =>
    obtain ⟨u, hstep, hrun⟩ := run_succ_eq_next.mp h
    exact ih (step_quiet hq hstep) hrun

theorem run_transfers_le (n : Nat) (h : Host.Core.run core n s = .next t) :
    (transfersOf t.out).length ≤ (transfersOf s.out).length + n := by
  induction n generalizing s with
  | zero => exact Host.Outcome.next.inj h ▸ le_rfl
  | succ n ih =>
    obtain ⟨u, hstep, hrun⟩ := run_succ_eq_next.mp h
    have hone := step_transfers_le hstep
    have hrest := ih hrun
    omega

/-- A run that reaches IDLE with nothing presented stays there. -/
theorem run_eq_of_idle {k : Nat} (hq : s.quiet) (hkn : k < n) (hu : Host.Core.run core k s = .next u)
    (hidle : u.state = .idle) (ht : Host.Core.run core n s = .next t) : u = t := by
  obtain ⟨m, rfl⟩ : ∃ m, n = k + (m + 1) := ⟨n - k - 1, by omega⟩
  obtain ⟨u', hu', hrest⟩ := run_add_eq_next.mp ht
  obtain rfl : u = u' := Host.Outcome.next.inj (hu.symm.trans hu')
  obtain ⟨w, hstep, -⟩ := run_succ_eq_next.mp hrest
  obtain ⟨hb, hf⟩ := step_runs hstep
  exact Host.Outcome.next.inj ((run_of_idle ⟨hb, hf, hidle⟩ (run_quiet_of_quiet k hq hu) _).symm.trans hrest)

/-- The engine's run needs every step: it sends as many transfers as it has steps. -/
theorem engine_not_idle_before (h : s.Proceeds) (hs : s.state = .page) (hpg : s.loop.pg = s.region.p0)
    (hc : s.build.policy = .cont) {k : Nat} (hk : k < transferCount s.build s.region)
    (hu : Host.Core.run core k s = .next u) : u.state ≠ .idle := by
  intro hidle
  have hrun := runsTo_engine h hs hpg
  obtain rfl : u = engine s := run_eq_of_idle h.quiet hk hu hidle hrun.run
  have hmost := run_transfers_le k hu
  rw [(hrun.sends hc).2, List.length_append, regionTransfers_length] at hmost
  omega

/-! ### CHECK and BUFWR -/

/-- CHECK and BUFWR of a valid region with its data supplied lead to PAGE at P0, the region's bytes in the buffer. -/
theorem step_check_bufwr (h : s.Proceeds) (hs : s.state = .check) (hv : validateRegion s.build s.region = none)
    (hdata : s.region.op = 2#4 → s.region.dlen.toNat ≤ s.region.dataIn.length) :
    ∃ c p : State, step s = .next c ∧ c.state = .bufwr ∧ step c = .next p ∧ p.Proceeds ∧ p.state = .page ∧
      p.loop.pg = p.region.p0 ∧ p.build = s.build ∧ p.region = fixRegion s.region ∧ p.out = s.out ∧
      ∀ a, (∀ i, i < p.region.nb → a ≠ addr p.build p.region i) → p.buf.read a = s.buf.read a := by
  have hcheck : step s = .next { s with region := fixRegion s.region, state := .bufwr } :=
    (step_of_check ⟨h.inv.build, h.noFault⟩ h.quiet.1 hs).trans (by rw [checked_of_valid hv])
  have hinv := everyStepKeepsTheInvariant _ _ h.inv hcheck
  have f := Region.facts (hinv.region (by simp) (by simp))
  have hsupplied : s.region.op = 2#4 → (fixRegion s.region).nb ≤ s.region.dataIn.length :=
    fun hop => (f.length hop).symm.le.trans (hdata hop)
  obtain ⟨m, hbufwr, -, hframe⟩ := bufferWritePlacesTheRegion _ hinv h.noFault h.quiet.1 rfl hsupplied
  exact ⟨_, _, hcheck, rfl, hbufwr, ⟨everyStepKeepsTheInvariant _ _ hinv hbufwr, h.quiet, h.noFault⟩, rfl, rfl, rfl, rfl,
    rfl, hframe⟩

/-- Settles O52: two steps to PAGE at P0, then the engine's run, which keeps the buffer. -/
theorem validRegionRequestRunsToItsEnd : Obligations.ValidRegionRequestRunsToItsEnd := by
  intro s hinv hf hq hs hv hdata
  obtain ⟨c, p, hcheck, hc, hbufwr, hp, hpage, hpg, hbuild, hregion, hout, hframe⟩ :=
    step_check_bufwr ⟨hinv, hq, hf⟩ hs hv hdata
  have hrun := runsTo_engine hp hpage hpg
  have hplaced := hp.inv.placed (.inl hpage)
  have htwo : ∀ k, Host.Core.run core (2 + k) s = Host.Core.run core k p := fun k => by
    rw [Nat.add_comm, run_succ_of_step hcheck, run_succ_of_step hbufwr]
  dsimp only
  rw [← hbuild, ← hregion]
  refine ⟨engine p, (htwo _).trans hrun.run, hrun.ended, hrun.region, ?_, ?_, fun hcont => ?_⟩
  · unfold State.placed
    rwa [hrun.region, hrun.buf, hrun.build]
  · rw [hrun.buf]
    exact hframe
  · obtain ⟨hresult, hsent⟩ := hrun.sends hcont
    refine ⟨hresult, hout ▸ hsent, fun k u hk hu => ?_⟩
    match k with
    | 0 => rw [← Host.Outcome.next.inj hu, hs]; simp
    | 1 => rw [← Host.Outcome.next.inj ((run_succ_of_step hcheck 0).symm.trans hu), hc]; simp
    | k + 2 =>
      rw [Nat.add_comm k, htwo] at hu
      exact engine_not_idle_before hp hpage hpg hcont (by omega) hu

end Sys2Proof.Machine
end

section
/-! PROOFS. The requests an idle block accepts (43_region_ops R190-R200): the region requests load their registers and go to
CHECK, where CLEAR's region always passes; CONFIGURE and READBUF are complete at acceptance. -/
namespace Sys2Proof.Machine

variable {s : State} {b : Build} {op : BitVec 4}

/-! ### The region requests -/

/-- Settles O15: a ready, configured block accepts the registers a BITMAP loads. -/
theorem bitmapIsAccepted : Obligations.BitmapIsAccepted := fun s x y w h n d hready hcfg =>
  acceptRegion_of_ready hready hcfg (loadBitmap s.region x y w h n d)

/-- Settles O16: a ready, configured block accepts the registers a FILL loads. -/
theorem fillIsAccepted : Obligations.FillIsAccepted := fun s x y w h v hready hcfg =>
  acceptRegion_of_ready hready hcfg (loadFill s.region opFill x y w h v)

/-! ### CLEAR's region -/

theorem toNat_cols (hb : admitted b = true) : (BitVec.ofNat 32 b.cols).toNat = b.cols := by
  obtain ⟨hcols, -⟩ := (admitted_iff b).mp hb
  exact Nat.mod_eq_of_lt (by omega)

theorem toNat_rows (hb : admitted b = true) : (BitVec.ofNat 32 (b.pages * 8)).toNat = b.pages * 8 := by
  obtain ⟨-, -, hpages, -⟩ := (admitted_iff b).mp hb
  exact Nat.mod_eq_of_lt (by omega)

/-- The whole surface is all its columns of all its pages, so only BITMAP's length check could refuse it (40_validator
R120). -/
theorem validate_surface (hb : admitted b = true) (hop : op ≠ 2#4) (n : Nat) :
    validate b op 0 0 b.cols (b.pages * 8 : Nat) n = none := by
  obtain ⟨hcols, hpages, -⟩ := (admitted_iff b).mp hb
  exact (validRegionsArePageRectangles b op _ _ _ _ n hb).mpr
    ⟨le_rfl, by omega, by omega, 0, b.pages, rfl, by omega, hpages, by omega, fun h => absurd h hop⟩

theorem validateRegion_surface (hb : admitted b = true) {r : Region} (hop : r.op ≠ 2#4) (hx : r.rx = 0#32)
    (hy : r.ry = 0#32) (hw : r.rw.toNat = b.cols) (hh : r.rh.toNat = b.pages * 8) : validateRegion b r = none := by
  obtain ⟨hcols, -, hpages, -⟩ := (admitted_iff b).mp hb
  have hwidth : r.rw.toInt = b.cols := hw ▸ BitVec.toInt_eq_toNat_of_lt (by omega)
  have hheight : r.rh.toInt = (b.pages * 8 : Nat) := hh ▸ BitVec.toInt_eq_toNat_of_lt (by omega)
  rw [validateRegion, hx, hy, hwidth, hheight, BitVec.toInt_zero]
  exact validate_surface hb hop _

/-- Settles O17: the columns and rows of an admitted build fit a descriptor word, so the region loaded is the surface. -/
theorem clearIsAcceptedAndAlwaysValid : Obligations.ClearIsAcceptedAndAlwaysValid := by
  intro s hready hcfg
  have hb : admitted s.build = true := hready.1
  have hcols := toNat_cols hb
  have hrows := toNat_rows hb
  exact ⟨_, acceptRegion_of_ready hready hcfg _, rfl, hcols, hrows,
    validateRegion_surface hb (by decide : opClear ≠ 2#4) rfl rfl hcols hrows⟩

/-! ### CONFIGURE and READBUF -/

/-- A request that is complete at its acceptance leaves the block idle, as it was. -/
theorem start_finish_of_idle (h : s.state = .idle) (op : BitVec 4) (r : ResultCode) (bytes : List Byte) :
    (s.start op).finish r bytes = { s with
      region := { s.region with op := op }
      loop := Loop.zero
      result := r
      out := s.out ++ [.response (resultValue r) bytes] } := by
  rw [State.finish, ← h]
  rfl

theorem execConfigure_of_not_configured (hs : s.ready) (hc : s.cfgValid = false) (a : BitVec 7) :
    exec (.configure a) s =
      .next ((State.start { s with cfgDevAddr := a, cfgValid := true } opConfigure).finish .resOk []) :=
  (accept_of_ready hs _).trans (if_neg (by simp [hc]))

/-- Settles O9: a ready block accepts, and the CONFIGURE is its first. -/
theorem configureSuppliesTheAddress : Obligations.ConfigureSuppliesTheAddress := by
  intro s a hready hcfg
  have hidle : s.state = .idle := hready.2.2
  exact (execConfigure_of_not_configured hready hcfg a).trans
    (congrArg _ (start_finish_of_idle (s := { s with cfgDevAddr := a, cfgValid := true }) hidle _ _ _))

/-- Settles O19: the range is inside the buffer, so the read answers the byte at each of its addresses. -/
theorem readbufAnswersTheBytes : Obligations.ReadbufAnswersTheBytes := by
  intro s off cnt hready hin
  have hidle : s.state = .idle := hready.2.2
  have hread := State.memRead_eq_some.mpr ⟨hin, rfl⟩
  refine ⟨(List.range cnt.toNat).map fun i => s.buf.read (off.toNat + i), by simp, fun i hi => by simp [hi], ?_⟩
  rw [execReadbuf_of_memRead hready hread, start_finish_of_idle hidle]
  rfl

end Sys2Proof.Machine
end

section
/-! PROOFS. The model faults (60_exceptions R230-R236): a fault is recorded on a block that had none, so it is the one in
`FAULT`; those of a request follow the tests of its acceptance, and the data underrun the bytes that were written. -/
namespace Sys2Proof.Machine

variable {s : State} {i : Instr}

/-! ### A request while busy -/

/-- Every request passes the tests of acceptance before it has an effect (43_region_ops R190). -/
theorem exec_request_eq_accept {q : Request} (hq : encode i = .request q) (s : State) : ∃ k, exec i s = accept s k := by
  cases i
  case configure | bitmap | fill | clear | readbuf | reservedOp => exact ⟨_, rfl⟩
  all_goals cases hq

/-- So does whatever is presented, an illegal request and one of no shape included. -/
theorem present_eq_accept (r : Request) (s : State) : ∃ k, present r s = accept s k := by
  unfold present
  split
  · next i hi =>
    obtain ⟨q, hq⟩ := decodeRequest_isRequest hi
    exact exec_request_eq_accept hq s
  · exact ⟨_, rfl⟩

theorem isRequest_eq_true_iff : isRequest i = true ↔ ∃ q, encode i = .request q := by
  unfold isRequest
  cases encode i <;> simp

/-- Settles O12: the second test of acceptance records `F_BUSY`, whatever the request would do. -/
theorem requestWhileBusyFaults : Obligations.RequestWhileBusyFaults := by
  intro s hruns hbusy
  refine ⟨fun i hi => ?_, fun r hr => ?_⟩
  · obtain ⟨q, hq⟩ := isRequest_eq_true_iff.mp hi
    obtain ⟨k, hk⟩ := exec_request_eq_accept hq s
    rw [hk, accept_of_busy hruns hbusy, raise_of_no_fault hruns.2]
  · obtain ⟨k, hk⟩ := present_eq_accept r { s with port := none }
    rw [step_of_offered (offered_of_port hr), hk, accept_of_busy (s := { s with port := none }) hruns hbusy,
      raise_of_no_fault (s := { s with port := none }) hruns.2]

/-! ### An illegal descriptor -/

/-- The operation codes 0x0 and 0x6 .. 0xF are the reserved ones (30_encoding R82). -/
theorem opAssigned_eq_false_iff : ∀ op : BitVec 4, opAssigned op = false ↔ op = 0#4 ∨ 6#4 ≤ op := by decide

/-- Settles O13: each disjunct is one of those that make a request illegal, and the decoder keeps such a request as
RESERVED_OP, which records the fault. -/
theorem illegalDescriptorFaults : Obligations.IllegalDescriptorFaults := by
  intro s w0 rest d hready hport hlen h
  have hill : Request.illegal ⟨w0 :: rest, d⟩ = true := by
    refine illegal_iff.mpr ⟨w0, rest, rfl, ?_⟩
    obtain ⟨_, rfl, hreserved⟩ | hw0 | ⟨hop, hd, w1, hrest, hw1⟩ | ⟨hop, hd, _, _, _, _, w5, hrest, hw5⟩ := h
    · exact .inr (.inl ((opAssigned_eq_false_iff _).mpr hreserved))
    · exact .inl hw0
    · exact .inr (.inr ⟨hd, by simp [opField, hop, hrest, reservedOperandBits, hw1]⟩)
    · exact .inr (.inr ⟨hd, by simp [opField, hop, hrest, reservedOperandBits, hw5]⟩)
  have hdecodes := decodeRequest_illegal hill (Nat.succ_le_succ hlen)
  rw [(stepRunsThePresentedRequest s _ _ hdecodes).1 hport]
  exact reservedOpRecordsItsFault { s with port := none } _ hready

/-! ### The requests in the wrong order -/

theorem acceptRegion_of_not_configured (h : s.ready) (hc : s.cfgValid = false) (r : Region) :
    acceptRegion s r = .next { s with fault := [.notConfigured] } := by
  have hf : s.fault = [] := h.2.1
  calc acceptRegion s r = .next (s.raise .notConfigured) := (accept_of_ready h _).trans (if_neg (by simp [hc]))
    _ = .next { s with fault := [.notConfigured] } := by rw [raise_of_no_fault hf]

/-- Settles O11: the three region requests are accepted alike, and the test of `CFG_VALID` comes before their registers. -/
theorem regionRequestBeforeConfigureFaults : Obligations.RegionRequestBeforeConfigureFaults := fun _ hready hcfg =>
  ⟨fun _ _ _ _ _ _ => acceptRegion_of_not_configured hready hcfg _,
    fun _ _ _ _ _ => acceptRegion_of_not_configured hready hcfg _, acceptRegion_of_not_configured hready hcfg _⟩

/-- A fault of an accepted request is recorded after acceptance has loaded `OP` and zeroed the loop registers
(43_region_ops R190). -/
theorem start_raise_of_no_fault (h : s.fault = []) (op : BitVec 4) (f : ModelFault) :
    (s.start op).raise f = { s with region := { s.region with op := op }, loop := Loop.zero, fault := [f] } :=
  raise_of_no_fault (s := s.start op) h f

/-- Settles O10: a ready block accepts the CONFIGURE, which finds `CFG_VALID` 1. -/
theorem secondConfigureRecordsItsFault : Obligations.SecondConfigureRecordsItsFault := by
  intro s a hready hcfg
  have hf : s.fault = [] := hready.2.1
  have hexec : exec (.configure a) s = .next ((s.start opConfigure).raise .reconfigure) :=
    (accept_of_ready hready _).trans (if_pos hcfg)
  rw [hexec, start_raise_of_no_fault hf]
  rfl

/-! ### READBUF outside the buffer -/

theorem memRead_eq_none {a n : Nat} (h : cap s.build < a + n) : s.memRead a n = none := if_neg (Nat.not_le.mpr h)

/-- Settles O20: a ready block accepts the READBUF, and the range leaves the buffer. -/
theorem readbufOutsideTheBufferFaults : Obligations.ReadbufOutsideTheBufferFaults := by
  intro s off cnt hready hout
  have hf : s.fault = [] := hready.2.1
  have hexec : exec (.readbuf off cnt) s = .next ((s.start opReadbuf).raise .hookRange) :=
    (accept_of_ready hready _).trans (by simp only [memRead_eq_none hout])
  rw [hexec, start_raise_of_no_fault hf]
  rfl

/-! ### A short data list -/

/-- A data list shorter than the region is the region's bytes. -/
theorem regionBytes_of_short_data {r : Region} (hop : r.op = opBitmap) (h : r.dataIn.length < r.nb) :
    regionBytes r = r.dataIn := by
  rw [regionBytes, if_pos hop, List.take_of_length_le h.le]

/-- Settles O29: a valid BITMAP's `DLEN` is its byte count, so the bytes placed are the whole data list, each at an address
of its own, and they are fewer than the region has. -/
theorem shortDataRecordsUnderrun : Obligations.ShortDataRecordsUnderrun := by
  intro s h hf hp hs hop hshort
  have f := Region.facts (h.region (by simp [hs]) (by simp [hs]))
  have hnb : s.region.dataIn.length < s.region.nb := hshort.trans_eq (f.length hop)
  have hbytes : regionBytes s.region = s.region.dataIn := regionBytes_of_short_data hop hnb
  obtain ⟨m, hm⟩ := Option.isSome_iff_exists.mp (placeBytes_regionBytes_isSome f s.buf)
  have hstep : step s = .next ({ s with buf := m }.raise .dataUnderrun) :=
    (step_of_bufwr hp hs).trans (stepBufwr_eq_next.mpr ⟨⟨h.build, hf⟩, m, hm, .inl ⟨by rwa [hbytes], rfl⟩⟩)
  rw [hbytes] at hm
  obtain ⟨-, hframe, hread⟩ := placeBytes_spec hm h.memory
  simp only [Nat.zero_add] at hframe hread
  refine ⟨m, ?_, hread fun _ _ hjk _ => (addr_lt_of_lt f hjk).ne, hframe⟩
  rw [hstep, raise_of_no_fault (s := { s with buf := m }) hf]

end Sys2Proof.Machine
end

section
/-! PROOFS. The idle block with nothing presented to it (70_reset_and_hazards R251). -/
namespace Sys2Proof.Machine

/-- Settles O3: with nothing on the port or in the line a step is the sequencer's, and in IDLE the sequencer of a block that
runs answers the state unchanged. -/
theorem idleBlockWaitsForARequest : Obligations.IdleBlockWaitsForARequest := fun _ hready hquiet =>
  step_of_idle hready hquiet

end Sys2Proof.Machine
end
